-- ==== Sys2Proof/Word.lean ====
section
/-! DEFINITION. The value types of PKCC-HEE: words, bytes, the 256-entry tables and the nodes of the
decode tree, with their plainest accessors. -/

namespace Sys2Proof

/-- A register, a command word or a FREQ or CODE entry (00_scope.md R7, register width). -/
abbrev Word := BitVec 32

/-- A byte of either stream, or a LEN entry (10_state.md R38, R43, R44). -/
abbrev Byte := BitVec 8

/-- A table of 256 entries of `w` bits (10_state.md R37 to R39). -/
abbrev Table (w : Nat) := Vector (BitVec w) 256

/-- Entry `i` of a table. Every index the rules use is below 256; a larger one reads 0. -/
def Table.read {w : Nat} (t : Table w) (i : Nat) : BitVec w := t[i]?.getD 0

/-- The table with entry `i` set to `v`; an index of 256 or more changes nothing. -/
def Table.write {w : Nat} (t : Table w) (i : Nat) (v : BitVec w) : Table w := t.setIfInBounds i v

/-- The table whose entry `i` is `f i`. -/
def Table.tabulate {w : Nat} (f : Nat → BitVec w) : Table w :=
  Vector.mk ((List.range 256).map f).toArray (by simp)

/-- One node of the decode tree (10_state.md R41). `sym = none` is the spec's -1, an internal node;
`left` and `right` are ids, positions in the arena, or none. -/
structure Node where
  sym   : Option (Fin 256)
  left  : Option Nat
  right : Option Nat
deriving DecidableEq, Repr

/-- The node BLDTREE appends: no symbol and no children (42_huffman_tree.md R140). -/
def Node.fresh : Node := Node.mk none none none

end Sys2Proof
end

