-- ==== Sys2Proof/Syntax.lean ====
section
/-! DEFINITION. The fourteen commands of PKCC-HEE, one constructor per row of spec/opcode_table.json
(30_encoding.md R94). -/

namespace Sys2Proof

/-- A command. SYM and N are natural numbers, as 30_encoding.md R92 assembles them. -/
inductive Instr where
  /-- NOP, 40_control.md R110. -/
  | nop
  /-- SRST, soft reset, 40_control.md R111. -/
  | srst
  /-- CLRERR, clear the error record, 40_control.md R112. -/
  | clrerr
  /-- FRQCLR, zero the frequency table, 41_huffman_build.md R120. -/
  | frqclr
  /-- FRQINC SYM, count one occurrence, 41_huffman_build.md R121. -/
  | frqinc (sym : Nat)
  /-- BLDLEN, build code lengths, 41_huffman_build.md R122. -/
  | bldlen
  /-- BLDCAN, assign canonical codes, 41_huffman_build.md R126. -/
  | bldcan
  /-- BLDTREE, build the decode tree, 42_huffman_tree.md R140. -/
  | bldtree
  /-- WRBITS N, write the N low bits of DATA, 43_bitstream.md R164. -/
  | wrbits (n : Nat)
  /-- WRCLOSE, pad and flush the writer, 43_bitstream.md R165. -/
  | wrclose
  /-- ENCSYM SYM, write the code of SYM, 42_huffman_tree.md R142. -/
  | encsym (sym : Nat)
  /-- RDBIT, read one bit, 43_bitstream.md R166. -/
  | rdbit
  /-- DECSYM, decode one symbol, 42_huffman_tree.md R143. -/
  | decsym
  /-- RDRESET, empty and reopen the reader, 43_bitstream.md R167. -/
  | rdreset
deriving DecidableEq, Repr

end Sys2Proof
end

