-- ==== Sys2Proof/WellFormed.lean ====
section
/-! DEFINITION. Which commands have an encoding: an FS command's SYM fits 8 bits and an FN command's
N fits 6 bits (30_encoding.md R91). Whether SYM is below SIZE, or N at most 32, is checked when the
command executes (R93), not here. -/

namespace Sys2Proof

/-- The operand of the command fits its field (30_encoding.md R91). -/
def Instr.wellFormed : Instr → Bool
  | .nop => true
  | .srst => true
  | .clrerr => true
  | .frqclr => true
  | .frqinc sym => decide (sym < 256)
  | .bldlen => true
  | .bldcan => true
  | .bldtree => true
  | .wrbits n => decide (n < 64)
  | .wrclose => true
  | .encsym sym => decide (sym < 256)
  | .rdbit => true
  | .decsym => true
  | .rdreset => true

end Sys2Proof
end

