-- ==== Sys2Proof/Decode.lean ====
section
/-! DEFINITION. From a 32-bit command word to a command, or to the reason it is ILLEGAL
(30_encoding.md R90 to R97), and back. Decoding is total: every word has exactly one outcome. -/

namespace Sys2Proof

/-- Why a command word is ILLEGAL (30_encoding.md R95). Executing any of them raises E_ILLEGAL. -/
inductive Illegal where
  /-- The Z field, bits 31:16, is not 0. -/
  | reservedField
  /-- OP is none of the fourteen of R94. -/
  | unknownOpcode
  /-- An F0 command whose A field is not 0. -/
  | operandGiven
  /-- A WRBITS whose A[7:6] is not 0. -/
  | reservedCount
deriving DecidableEq, Repr

/-- The OP field, bits 7:0 (30_encoding.md R90). -/
def opField (w : Word) : Nat := w.toNat % 256

/-- The A field, bits 15:8 (30_encoding.md R90). As SYM it is used whole (R92). -/
def aField (w : Word) : Nat := w.toNat / 256 % 256

/-- The Z field, bits 31:16 (30_encoding.md R90). -/
def zField (w : Word) : Nat := w.toNat / 65536

/-- An F0 command: legal only with A = 0 (30_encoding.md R91). -/
def decodeF0 (a : Nat) (i : Instr) : Except Illegal Instr :=
  if a = 0 then .ok i else .error .operandGiven

/-- An FN command: N = A[5:0], legal only with A[7:6] = 0 (30_encoding.md R91, R92). -/
def decodeFN (a : Nat) (i : Nat → Instr) : Except Illegal Instr :=
  if a < 64 then .ok (i a) else .error .reservedCount

/-- `decode(w)` of 30_encoding.md R93. -/
def decode (w : Word) : Except Illegal Instr :=
  if zField w ≠ 0 then .error .reservedField
  else
    match opField w with
    | 0x00 => decodeF0 (aField w) .nop
    | 0x01 => decodeF0 (aField w) .srst
    | 0x02 => decodeF0 (aField w) .clrerr
    | 0x08 => decodeF0 (aField w) .frqclr
    | 0x09 => .ok (.frqinc (aField w))
    | 0x10 => decodeF0 (aField w) .bldlen
    | 0x11 => decodeF0 (aField w) .bldcan
    | 0x12 => decodeF0 (aField w) .bldtree
    | 0x20 => decodeFN (aField w) .wrbits
    | 0x21 => decodeF0 (aField w) .wrclose
    | 0x22 => .ok (.encsym (aField w))
    | 0x30 => decodeF0 (aField w) .rdbit
    | 0x31 => decodeF0 (aField w) .decsym
    | 0x32 => decodeF0 (aField w) .rdreset
    | _ => .error .unknownOpcode

/-- A word from its opcode and A field, with Z = 0 (30_encoding.md R90). -/
def commandWord (op a : Nat) : Word := BitVec.ofNat 32 (op + 256 * a)

/-- The word of a command (30_encoding.md R91, R94). -/
def encode : Instr → Word
  | .nop => commandWord 0x00 0
  | .srst => commandWord 0x01 0
  | .clrerr => commandWord 0x02 0
  | .frqclr => commandWord 0x08 0
  | .frqinc sym => commandWord 0x09 sym
  | .bldlen => commandWord 0x10 0
  | .bldcan => commandWord 0x11 0
  | .bldtree => commandWord 0x12 0
  | .wrbits n => commandWord 0x20 n
  | .wrclose => commandWord 0x21 0
  | .encsym sym => commandWord 0x22 sym
  | .rdbit => commandWord 0x30 0
  | .decsym => commandWord 0x31 0
  | .rdreset => commandWord 0x32 0

/-- A row of the opcode map of 30_encoding.md R94. -/
structure OpcodeRow where
  name  : String
  pat   : Word
  mask  : Word
deriving DecidableEq, Repr

/-- The opcode map of 30_encoding.md R94, row for row. -/
def opcodeMap : List OpcodeRow :=
  [OpcodeRow.mk "NOP" 0x00000000 0xFFFFFFFF, OpcodeRow.mk "SRST" 0x00000001 0xFFFFFFFF,
   OpcodeRow.mk "CLRERR" 0x00000002 0xFFFFFFFF, OpcodeRow.mk "FRQCLR" 0x00000008 0xFFFFFFFF,
   OpcodeRow.mk "FRQINC" 0x00000009 0xFFFF00FF, OpcodeRow.mk "BLDLEN" 0x00000010 0xFFFFFFFF,
   OpcodeRow.mk "BLDCAN" 0x00000011 0xFFFFFFFF, OpcodeRow.mk "BLDTREE" 0x00000012 0xFFFFFFFF,
   OpcodeRow.mk "WRBITS" 0x00000020 0xFFFFC0FF, OpcodeRow.mk "WRCLOSE" 0x00000021 0xFFFFFFFF,
   OpcodeRow.mk "ENCSYM" 0x00000022 0xFFFF00FF, OpcodeRow.mk "RDBIT" 0x00000030 0xFFFFFFFF,
   OpcodeRow.mk "DECSYM" 0x00000031 0xFFFFFFFF, OpcodeRow.mk "RDRESET" 0x00000032 0xFFFFFFFF]

/-- A word selects a row when `(w & mask) = match` (30_encoding.md R94). -/
def OpcodeRow.selects (r : OpcodeRow) (w : Word) : Bool := w &&& r.mask == r.pat

/-- The row's name of a command (30_encoding.md R94). -/
def mnemonicOf : Instr → String
  | .nop => "NOP"
  | .srst => "SRST"
  | .clrerr => "CLRERR"
  | .frqclr => "FRQCLR"
  | .frqinc _ => "FRQINC"
  | .bldlen => "BLDLEN"
  | .bldcan => "BLDCAN"
  | .bldtree => "BLDTREE"
  | .wrbits _ => "WRBITS"
  | .wrclose => "WRCLOSE"
  | .encsym _ => "ENCSYM"
  | .rdbit => "RDBIT"
  | .decsym => "DECSYM"
  | .rdreset => "RDRESET"

/-- The command word whose low `nbits` bits are `w` and whose other bits are 0. -/
def tableWord (nbits w : Nat) : Word := BitVec.ofNat 32 (w % 2 ^ nbits)

/-- The command the decoder reads from an opcode-table word; none where it refuses it. A command is
one 32-bit number written to CMD (30_encoding.md R90), so there are no bytes to lay out. -/
def decodeTableWord (nbits w : Nat) : Option Instr := (decode (tableWord nbits w)).toOption

end Sys2Proof
end

