-- ==== Sys2Proof/Config.lean ====
section
/-! DEFINITION. What an implementation of PKCC-HEE fixes: the OPEN parameters of 00_scope.md R7 and
the unspecified reset contents of the tables (10_state.md R46). Each is an opaque constant, so a
statement about the model holds for every value the spec allows. -/

namespace Sys2Proof

/-- How many 4096-byte pages lie below the window. DESIGN CHOICE (log entry 4): an opaque constant. -/
opaque Config.basePage : Nat

/-- BASE, the bus address of the register window: a multiple of 4096 (00_scope.md R7). -/
def Config.base : Nat := 4096 * Config.basePage

/-- How far IN_DEPTH exceeds its lower bound 4. DESIGN CHOICE (log entry 3): an opaque constant. -/
opaque Config.inDepthOverFour : Nat

/-- How far OUT_DEPTH exceeds its lower bound 4. DESIGN CHOICE (log entry 3): an opaque constant. -/
opaque Config.outDepthOverFour : Nat

/-- IN_DEPTH, the depth of the input FIFO in bytes: an integer of at least 4 (00_scope.md R7). -/
def Config.inDepth : Nat := Config.inDepthOverFour + 4

/-- OUT_DEPTH, the depth of the output FIFO in bytes: an integer of at least 4 (00_scope.md R7). -/
def Config.outDepth : Nat := Config.outDepthOverFour + 4

/-- What IN_COUNT or OUT_COUNT shows for a FIFO of 65536 bytes or more, a count its 16 bits cannot equal
(10_state.md R36). DESIGN CHOICE (log entry 15): an opaque constant of the number of bytes. -/
opaque Config.wideCount : Nat → BitVec 16

/-- NODE_CAP, the capacity of the decode-tree arena (00_scope.md R7). -/
def Config.nodeCap : Nat := 1 + 256 * 32

/-- What FREQ[i] holds after power-on: one draw per entry (10_state.md R37, 93 U1). DESIGN CHOICE
(log entry 1): an opaque constant stands for the draw. -/
opaque Config.freqDraw : Nat → Word

/-- What LEN[i] holds after power-on: one draw per entry (10_state.md R38, 93 U1). DESIGN CHOICE
(log entry 1). -/
opaque Config.lenDraw : Nat → Byte

/-- What CODE[i] holds after power-on: one draw per entry (10_state.md R39, 93 U1). DESIGN CHOICE
(log entry 1). -/
opaque Config.codeDraw : Nat → Word

/-- What TREE holds after power-on (10_state.md R41, 93 U1). DESIGN CHOICE (log entry 2). -/
opaque Config.treeDraw : List Node

end Sys2Proof
end

