-- ==== Sys2Proof/Machine/State.lean ====
section
/-! DEFINITION. The state of PKCC-HEE (10_state.md R20), the host's accesses, why a step can stop,
and the state after power-on reset (10_state.md R46). -/

namespace Sys2Proof.Machine

/-- The error codes of 60_exceptions.md R181, in the order of their numbers. -/
inductive ErrorCode where
  | illegal
  | cmdBusy
  | writeBusy
  | symRange
  | freqOverflow
  | freqZero
  | lenOverflow
  | lenTooLong
  | oversubscribed
  | notReady
  | unusedSym
  | badOperand
  | endOfStream
  | invalidCode
deriving DecidableEq, Repr

/-- The width of a host access in bits. 32 is the only one the window serves (20_memory.md R61). -/
inductive Width where
  | w8
  | w16
  | w32
  | w64
deriving DecidableEq, Repr

/-- Where a host access goes: an offset into the 4096-byte window, as the rules give it, or the bus
address the platform drives (20_memory.md R60; log entry 4). -/
inductive Place where
  | offset (off : BitVec 12)
  | bus (addr : Nat)
deriving DecidableEq, Repr

/-- One host access: `MemRead` or `MemWrite` of 00_scope.md R9. -/
inductive Access where
  | read (width : Width) (place : Place)
  | write (width : Width) (place : Place) (value : Word)
deriving DecidableEq, Repr

/-- Whose turn it is: one engine step, or one host access (00_scope.md R6, 20_memory.md R76). -/
inductive Turn where
  | engine
  | host (a : Access)
deriving DecidableEq, Repr

/-- Which of the three kinds of access of 20_memory.md R61 ends in busFault. -/
inductive BusError where
  /-- The access is 8, 16 or 64 bits wide. -/
  | width
  /-- The offset is no multiple of 4. -/
  | misaligned
  /-- The offset is one of 0x02C to 0x3FF. -/
  | unmapped
deriving DecidableEq, Repr

/-- Why a step stops with a fault. -/
inductive Fault where
  /-- Raised by a host access that 20_memory.md R61 ends in busFault. Safe: the access changes no
  state, and the host fault is never cleared (log entry 5). -/
  | busFault (why : BusError)
  /-- Raised by a host access at a bus address outside BASE to BASE + 0xFFF, an address at which
  PKCC-HEE does not exist (20_memory.md R60). Safe (log entry 4). -/
  | outsideWindow
deriving DecidableEq, Repr

/-- Why a step gives no meaning. PKCC-HEE refuses nothing (00_scope.md R10, 30_encoding.md R95), so
no step of this model answers with one. -/
inductive Refusal where
  /-- Raised by the dispatch for a command without a meaning: none is left. Safe. -/
  | notModelled (mnemonic : String)
deriving DecidableEq, Repr

/-- The state of PKCC-HEE, element by element of 10_state.md R20, and two fields of the model's own:
the turns the run has still to take (log entry 6) and the values the host has read (log entry 7). -/
structure State where
  /-- PENDING (R22). STATUS.BUSY is whether it holds a word (R27). -/
  pending    : Option Word
  /-- DATA (R23). -/
  data       : Word
  /-- CTRL.SIZE (R24). -/
  size       : Nat
  /-- RESULT (R25). -/
  result     : Word
  /-- STATUS.ERR (R28). -/
  err        : Bool
  /-- STATUS.ERRCODE (R28). -/
  errcode    : Byte
  /-- STATUS.EOS (R29). -/
  eos        : Bool
  /-- STATUS.IN_CLOSED (R30). -/
  inClosed   : Bool
  /-- STATUS.IN_DROP (R31). -/
  inDrop     : Bool
  /-- STATUS.CODES_VALID (R32). -/
  codesValid : Bool
  /-- STATUS.TREE_VALID (R33). -/
  treeValid  : Bool
  /-- FREQ (R37). -/
  freq       : Table 32
  /-- LEN (R38). -/
  len        : Table 8
  /-- CODE (R39). -/
  code       : Table 32
  /-- WACC, the writer's accumulator (R40). -/
  wacc       : Byte
  /-- WN, how many bits it holds (R40). -/
  wn         : Nat
  /-- TREE, the decode-tree arena; node `k` is the entry at position `k`, the root is 0 (R41). -/
  tree       : List Node
  /-- RBYTE, the byte being read (R42). -/
  rbyte      : Byte
  /-- RN, how many of its bits are unread (R42). -/
  rn         : Nat
  /-- INQ, the input FIFO, oldest first (R43). -/
  inq        : List Byte
  /-- OUTQ, the output FIFO, oldest first (R44). -/
  outq       : List Byte
  /-- The model's own: the turns still to come, next first. When it is empty every turn is the
  engine's. -/
  agenda     : List Turn
  /-- The model's own: the values the host's reads have returned, oldest first. -/
  readLog    : List Word
deriving DecidableEq, Repr

/-- How the engine's evaluation of the pending command ends (00_scope.md R10). -/
inductive Ending where
  /-- `done(s')`. -/
  | done (s : State)
  /-- `hold`: nothing changes and the command stays pending. -/
  | hold
  /-- `error(E, s')`. -/
  | error (e : ErrorCode) (s : State)
deriving DecidableEq, Repr

/-- The state after power-on reset (10_state.md R46, 70_reset_and_hazards.md R210, R211). The tables
and TREE hold their draws (log entries 1 and 2); the agenda and the read log are empty (log entries
6 and 7). -/
def State.reset : State where
  pending := none
  data := 0
  size := 256
  result := 0
  err := false
  errcode := 0
  eos := false
  inClosed := false
  inDrop := false
  codesValid := false
  treeValid := false
  freq := Table.tabulate Config.freqDraw
  len := Table.tabulate Config.lenDraw
  code := Table.tabulate Config.codeDraw
  wacc := 0
  wn := 0
  tree := Config.treeDraw.take Config.nodeCap
  rbyte := 0
  rn := 0
  inq := []
  outq := []
  agenda := []
  readLog := []

end Sys2Proof.Machine
end

