-- ==== Sys2Proof/Machine/Flags.lean ====
section
/-! DEFINITION. The STATUS register and the bookkeeping of its valid bits (10_state.md R26 to R34). -/

namespace Sys2Proof.Machine

/-- STATUS.BUSY: PENDING holds a word (10_state.md R27). -/
def State.busy (s : State) : Bool := s.pending.isSome

/-- The STATUS register as a host read returns it (10_state.md R26): bits 31:24 and bit 7 read 0,
RD_NBITS is RN and WR_NBITS is WN (R34). -/
def State.status (s : State) : Word :=
  0#8 ++ BitVec.ofNat 4 s.rn ++ BitVec.ofNat 4 s.wn ++ s.errcode ++ 0#1
    ++ BitVec.ofBool s.treeValid ++ BitVec.ofBool s.codesValid ++ BitVec.ofBool s.inDrop
    ++ BitVec.ofBool s.inClosed ++ BitVec.ofBool s.eos ++ BitVec.ofBool s.err
    ++ BitVec.ofBool s.busy

/-- The 16-bit field that shows how many bytes a FIFO holds, free for a count no field can show
(10_state.md R36; log entry 15). -/
def countField (n : Nat) : BitVec 16 :=
  if n < 65536 then BitVec.ofNat 16 n else Config.wideCount n

/-- The FIFO_STAT register: OUT_COUNT in bits 31:16, IN_COUNT in bits 15:0 (10_state.md R36). -/
def State.fifoStat (s : State) : Word := countField s.outq.length ++ countField s.inq.length

/-- `(length(OUTQ) << 16) | length(INQ)`, on unbounded naturals (20_memory.md R63, 00_scope.md R8). -/
def State.fifoCounts (s : State) : Nat := (s.outq.length <<< 16) ||| s.inq.length

/-- What a host read of FIFO_STAT returns: the number of 20_memory.md R63, and the register where that
number does not fit 32 bits. It is the register wherever each FIFO holds fewer than 65536 bytes; for longer
ones R36 and R63 differ, and each is kept where it speaks. DESIGN CHOICE (log entry 15). -/
def State.fifoStatRead (s : State) : Word :=
  if s.fifoCounts < 2 ^ 32 then BitVec.ofNat 32 s.fifoCounts else s.fifoStat

/-- The CTRL register: SIZE in bits 8:0, the rest 0 (10_state.md R24). -/
def State.ctrl (s : State) : Word := BitVec.ofNat 32 s.size

/-- What every event that changes SIZE or LEN does to the valid bits (10_state.md R32, R33). -/
def State.invalidate (s : State) : State := { s with codesValid := false, treeValid := false }

/-- The valid bits after a BLDCAN that completes (10_state.md R32, R33). -/
def State.codesBuilt (s : State) : State := { s with codesValid := true, treeValid := false }

/-- The valid bits after a BLDTREE that completes (10_state.md R33). -/
def State.treeBuilt (s : State) : State := { s with treeValid := true }

end Sys2Proof.Machine
end

