-- ==== Sys2Proof/Machine/Ops.lean ====
section
/-! DEFINITION. The shared operations of the engine: recording an error and clearing the record, the
three endings of a command, the bit writer and the bit reader (00_scope.md R9, R10). -/

namespace Sys2Proof.Machine

/-- The number STATUS.ERRCODE shows for an error (60_exceptions.md R181). -/
def ErrorCode.number : ErrorCode → Byte
  | .illegal => 0x01
  | .cmdBusy => 0x02
  | .writeBusy => 0x03
  | .symRange => 0x04
  | .freqOverflow => 0x05
  | .freqZero => 0x06
  | .lenOverflow => 0x07
  | .lenTooLong => 0x08
  | .oversubscribed => 0x09
  | .notReady => 0x0A
  | .unusedSym => 0x0B
  | .badOperand => 0x0C
  | .endOfStream => 0x0D
  | .invalidCode => 0x0E

/-- `recordError(E)` (60_exceptions.md R183), the hardware's whole error entry (R180, R189): the
first error since the last clear is kept. -/
def recordError (e : ErrorCode) (s : State) : State :=
  { s with err := true, errcode := if s.err then s.errcode else e.number }

/-- The way out of an error state (60_exceptions.md R190): what CLRERR does (40_control.md R112). -/
def clearErrorRecord (s : State) : State :=
  { s with err := false, errcode := 0, inDrop := false }

/-- The state an engine step leaves (00_scope.md R10): `done` and `error` empty PENDING, and `hold`
leaves the state `s` the step began with. -/
def settle (s : State) : Ending → State
  | .done t => { t with pending := none }
  | .hold => s
  | .error e t => recordError e { t with pending := none }

/-- The outcome of an engine step: always a next state, since the engine never refuses (R10). -/
def finish (s : State) (r : Ending) : Host.Outcome State Fault Refusal := .next (settle s r)

/-! ## The FIFOs (00_scope.md R9) -/

/-- `pushOut(b)`: append to the output FIFO (10_state.md R44). -/
def pushOut (b : Byte) (s : State) : State := { s with outq := s.outq ++ [b] }

/-- `popIn()` with the pull of 43_bitstream.md R162: the oldest byte of INQ becomes RBYTE, with all
eight bits unread. -/
def pullByte (b : Byte) (rest : List Byte) (s : State) : State :=
  { s with rbyte := b, rn := 8, inq := rest }

/-! ## The bit writer (43_bitstream.md R160, R161) -/

/-- `2 * WACC + b`, in WACC's eight bits (43_bitstream.md R160). -/
def accumulate (acc : Byte) (b : Bool) : Byte := BitVec.ofNat 8 (2 * acc.toNat + b.toNat)

/-- The writer with nothing accumulated. -/
def State.writerEmptied (s : State) : State := { s with wacc := 0, wn := 0 }

/-- `writeBit(b)` (43_bitstream.md R160); none is `hold`. -/
def writeBit (b : Bool) (s : State) : Option State :=
  if s.wn + 1 = 8 then
    if s.outq.length = Config.outDepth then none
    else some (pushOut (accumulate s.wacc b) s).writerEmptied
  else some { s with wacc := accumulate s.wacc b, wn := s.wn + 1 }

/-- Writes bits `n-1` down to 0 of `v`, in that order; none is `hold`. -/
def writeBits (v : Word) : Nat → State → Option State
  | 0, s => some s
  | n + 1, s => (writeBit (v.getLsbD n) s).bind (writeBits v n)

/-- `closeWriter()` (43_bitstream.md R161); none is `hold`. -/
def closeWriter (s : State) : Option State :=
  if 0 < s.wn then
    if s.outq.length = Config.outDepth then none
    else some (pushOut (s.wacc <<< (8 - s.wn)) s).writerEmptied
  else some s

/-- A writing command ends in `done`, or in `hold` when a primitive held (70_reset_and_hazards.md
R213). -/
def doneOrHold : Option State → Ending
  | some t => .done t
  | none => .hold

/-! ## The bit reader (43_bitstream.md R162) -/

/-- What `readBit()` answers. -/
inductive BitRead where
  | bit (b : Bool) (s : State)
  | endOfStream
  | hold
deriving DecidableEq, Repr

/-- `b <- RBYTE[RN-1]; RN <- RN - 1` (43_bitstream.md R162). -/
def takeBit (s : State) : BitRead :=
  .bit (s.rbyte.getLsbD (s.rn - 1)) { s with rn := s.rn - 1 }

/-- `readBit()` (43_bitstream.md R162). -/
def readBit (s : State) : BitRead :=
  if s.rn = 0 then
    match s.inq with
    | [] => if s.inClosed then .endOfStream else .hold
    | b :: rest => takeBit (pullByte b rest s)
  else takeBit s

/-- How many bits the reader can still give before it needs the host. -/
def State.availableBits (s : State) : Nat := 8 * s.inq.length + s.rn

end Sys2Proof.Machine
end

