-- ==== Sys2Proof/Machine/Operands.lean ====
section
/-! DEFINITION. The operands of the commands (30_encoding.md R92): the symbol operand against SIZE,
the table entries a command reads, and the children and symbols of TREE. -/

namespace Sys2Proof.Machine

/-- SYM is an operand the command may use: SYM < CTRL.SIZE (41_huffman_build.md R121, 42 R142). -/
def State.symInRange (s : State) (sym : Nat) : Bool := decide (sym < s.size)

/-- FREQ[i] as a number. -/
def State.freqAt (s : State) (i : Nat) : Nat := (s.freq.read i).toNat

/-- LEN[i] as a number. -/
def State.lenAt (s : State) (i : Nat) : Nat := (s.len.read i).toNat

/-- CODE[i]. -/
def State.codeAt (s : State) (i : Nat) : Word := s.code.read i

/-- `TREE[cur].left` for a 0 bit and `TREE[cur].right` for a 1 bit (42_huffman_tree.md R140, R143). A
`cur` that is no node of the arena has no child (log entry 8). -/
def childOf (tree : List Node) (cur : Nat) (b : Bool) : Option Nat :=
  tree[cur]?.bind fun node => if b then node.right else node.left

/-- `TREE[k].sym`, none for an internal node (10_state.md R41). -/
def symOf (tree : List Node) (k : Nat) : Option (Fin 256) := tree[k]?.bind Node.sym

end Sys2Proof.Machine
end

