-- ==== Sys2Proof/Machine/Build.lean ====
section
/-! DEFINITION. The frequency table and the Huffman code builder: FRQCLR, FRQINC, BLDLEN and BLDCAN
(41_huffman_build.md). -/

namespace Sys2Proof.Machine

/-! ## The frequency table (R120, R121) -/

/-- FRQCLR: all 256 entries, whatever SIZE is (R120). -/
def clearFrequencies (s : State) : State := { s with freq := Table.tabulate fun _ => 0 }

/-- FREQ[sym] <- FREQ[sym] + 1 (R121). -/
def countSymbol (sym : Nat) (s : State) : State :=
  { s with freq := s.freq.write sym (s.freq.read sym + 1) }

/-- The body of FRQINC (R121). -/
def frqinc (sym : Nat) (s : State) : Ending :=
  if s.symInRange sym then
    if s.freq.read sym = 0xFFFFFFFF then .error .freqOverflow s
    else .done (countSymbol sym s)
  else .error .symRange s

/-! ## Code lengths (R122 to R125) -/

/-- The merge tree of BLDLEN (R122). -/
inductive MergeTree where
  | leaf (sym : Nat)
  /-- The synthetic sibling, which carries no symbol (R124). -/
  | synthetic
  | internal (left right : MergeTree)
deriving DecidableEq, Repr

/-- A node in the merge queue, with its weight and its sequence number (R122). -/
structure QNode where
  tree   : MergeTree
  weight : Nat
  seq    : Nat
deriving DecidableEq, Repr

/-- The smaller pair `(weight, seq)` in lexicographic order (R123). -/
def QNode.before (x y : QNode) : Bool :=
  decide (x.weight < y.weight ∨ x.weight = y.weight ∧ x.seq < y.seq)

/-- `extractMin(Q)` (R123): the least node, and the queue without it; none when the queue is empty. -/
def extractMin : List QNode → Option (QNode × List QNode)
  | [] => none
  | x :: xs =>
    match extractMin xs with
    | none => some (x, [])
    | some (m, rest) => if x.before m then some (x, xs) else some (m, x :: rest)

/-- The symbols below `n` with a nonzero frequency, in ascending order. -/
def usedSymbols (freq : Table 32) (n : Nat) : List Nat :=
  (List.range n).filter fun s => decide (freq.read s ≠ 0)

/-- The queue of leaves, in ascending symbol order, numbered from 0 (R122). -/
def leafQueue (freq : Table 32) (n : Nat) : List QNode :=
  (usedSymbols freq n).zipIdx.map fun p =>
    QNode.mk (.leaf p.1) (freq.read p.1).toNat p.2

/-- The synthetic sibling joins a queue of exactly one leaf (R124). -/
def withSynthetic (q : List QNode) : List QNode :=
  if q.length = 1 then q ++ [QNode.mk .synthetic 0 q.length] else q

/-- The node that joins `a`, extracted first, and `b`, extracted second (R122, R123). -/
def QNode.join (a b : QNode) (seq : Nat) : QNode :=
  QNode.mk (.internal a.tree b.tree) (a.weight + b.weight) seq

/-- The loop `while length(Q) > 1` of R122. Each turn shortens the queue by one, so a fuel of its
length is enough. -/
def mergeQueue : Nat → Nat → List QNode → List QNode
  | 0, _, q => q
  | fuel + 1, seq, q =>
    match extractMin q with
    | none => q
    | some (a, q₁) =>
      match extractMin q₁ with
      | none => q
      | some (b, q₂) => mergeQueue fuel (seq + 1) (q₂ ++ [a.join b seq])

/-- The depth of every leaf of a merge tree whose root is at depth `d` (R122). -/
def leafDepths : MergeTree → Nat → List (Nat × Nat)
  | .leaf sym, d => [(sym, d)]
  | .synthetic, _ => []
  | .internal l r, d => leafDepths l (d + 1) ++ leafDepths r (d + 1)

/-- The value a list of pairs gives to `s`, or 0. -/
def valueFor (pairs : List (Nat × Nat)) (s : Nat) : Nat := (pairs.lookup s).getD 0

/-- L[s] <- max(d, 1) for every leaf `s` at depth `d` under the root, and 0 for every other symbol
(R122, R125). -/
def lengthsOf (root : List QNode) : List (Nat × Nat) :=
  root.flatMap fun q => (leafDepths q.tree 0).map fun p => (p.1, max p.2 1)

/-- `buildCodeLengths(freq[size]) -> codeLength[size]` (R122): the used symbols with their lengths. -/
def buildCodeLengths (freq : Table 32) (n : Nat) : Except ErrorCode (List (Nat × Nat)) :=
  let leaves := leafQueue freq n
  if leaves = [] then .error .freqZero
  else
    let q := withSynthetic leaves
    let lens := lengthsOf (mergeQueue q.length q.length q)
    if lens.any fun p => decide (255 < p.2) then .error .lenOverflow else .ok lens

/-- LEN[0..n-1] <- L[0..n-1]; the other entries are kept (R122). -/
def storeLengths (n : Nat) (lens : List (Nat × Nat)) (len : Table 8) : Table 8 :=
  Table.tabulate fun i => if i < n then BitVec.ofNat 8 (valueFor lens i) else len.read i

/-- The body of BLDLEN (R122). -/
def bldlen (s : State) : Ending :=
  match buildCodeLengths s.freq s.size with
  | .error e => .error e s
  | .ok lens => .done { s with len := storeLengths s.size lens s.len }.invalidate

/-! ## Canonical codes (R126, R127) -/

/-- The order of R126: by length, then by symbol. -/
abbrev byLengthThenSymbol (x y : Nat × Nat) : Prop := x.1 < y.1 ∨ x.1 = y.1 ∧ x.2 ≤ y.2

/-- S: the pairs `(LEN[s], s)` of the symbols with a nonzero length, in that order (R126). -/
def sortedLengths (len : Table 8) (n : Nat) : List (Nat × Nat) :=
  (((List.range n).filter fun s => decide (len.read s ≠ 0)).map
    fun s => ((len.read s).toNat, s)).insertionSort byLengthThenSymbol

/-- The walk of R126 over S: the code of each symbol, or none when a code no longer fits its
length. -/
def assignCodes : Nat → Nat → List (Nat × Nat) → Option (List (Nat × Nat))
  | _, _, [] => some []
  | code, prev, (l, s) :: rest =>
    let c := code * 2 ^ (l - prev)
    if 2 ^ l ≤ c then none
    else (assignCodes (c + 1) l rest).map fun cs => (s, c) :: cs

/-- `buildCanonicalCodes(codeLength[size]) -> codeBits[size]` (R126): the used symbols with their
codes. -/
def buildCanonicalCodes (len : Table 8) (n : Nat) : Except ErrorCode (List (Nat × Nat)) :=
  if (List.range n).any fun s => decide (32 < (len.read s).toNat) then .error .lenTooLong
  else
    match assignCodes 0 0 (sortedLengths len n) with
    | none => .error .oversubscribed
    | some codes => .ok codes

/-- CODE[0..n-1] <- C[0..n-1]; the other entries are kept (R126). -/
def storeCodes (n : Nat) (codes : List (Nat × Nat)) (code : Table 32) : Table 32 :=
  Table.tabulate fun i => if i < n then BitVec.ofNat 32 (valueFor codes i) else code.read i

/-- The body of BLDCAN (R126). -/
def bldcan (s : State) : Ending :=
  match buildCanonicalCodes s.len s.size with
  | .error e => .error e s
  | .ok codes => .done { s with code := storeCodes s.size codes s.code }.codesBuilt

/-! ## The meanings -/

/-- FRQCLR (41_huffman_build.md R120). -/
def execFrqclr (s : State) : Host.Outcome State Fault Refusal :=
  finish s (.done (clearFrequencies s))

/-- FRQINC SYM (41_huffman_build.md R121). -/
def execFrqinc (sym : Nat) (s : State) : Host.Outcome State Fault Refusal :=
  finish s (frqinc sym s)

/-- BLDLEN (41_huffman_build.md R122). -/
def execBldlen (s : State) : Host.Outcome State Fault Refusal := finish s (bldlen s)

/-- BLDCAN (41_huffman_build.md R126). -/
def execBldcan (s : State) : Host.Outcome State Fault Refusal := finish s (bldcan s)

end Sys2Proof.Machine
end

