-- ==== Sys2Proof/Machine/Control.lean ====
section
/-! DEFINITION. The control commands NOP, SRST and CLRERR (40_control.md). -/

namespace Sys2Proof.Machine

/-- The "after SRST" column of 10_state.md R46. FREQ, LEN, CODE and TREE are left unchanged. -/
def softReset (s : State) : State :=
  { s with
    pending := none, data := 0, size := 256, result := 0
    err := false, errcode := 0, eos := false, inClosed := false, inDrop := false
    codesValid := false, treeValid := false
    wacc := 0, wn := 0, rbyte := 0, rn := 0, inq := [], outq := [] }

/-- NOP (40_control.md R110). -/
def execNop (s : State) : Host.Outcome State Fault Refusal := finish s (.done s)

/-- SRST (40_control.md R111). -/
def execSrst (s : State) : Host.Outcome State Fault Refusal := finish s (.done (softReset s))

/-- CLRERR (40_control.md R112). -/
def execClrerr (s : State) : Host.Outcome State Fault Refusal :=
  finish s (.done (clearErrorRecord s))

end Sys2Proof.Machine
end

