-- ==== Sys2Proof/Machine/Stream.lean ====
section
/-! DEFINITION. The raw bit-stream commands WRBITS, WRCLOSE, RDBIT and RDRESET (43_bitstream.md). -/

namespace Sys2Proof.Machine

/-- The body of WRBITS (R164). -/
def wrbits (n : Nat) (s : State) : Ending :=
  if 32 < n then .error .badOperand s else doneOrHold (writeBits s.data n s)

/-- The body of RDBIT (R166). -/
def rdbit (s : State) : Ending :=
  match readBit s with
  | .hold => .hold
  | .endOfStream => .done { s with result := 0xFFFFFFFF, eos := true }
  | .bit b t => .done { t with result := BitVec.ofNat 32 b.toNat, eos := false }

/-- The body of RDRESET (R167). -/
def emptyReader (s : State) : State :=
  { s with inq := [], rbyte := 0, rn := 0, inClosed := false, eos := false }

/-- WRBITS N (43_bitstream.md R164). -/
def execWrbits (n : Nat) (s : State) : Host.Outcome State Fault Refusal := finish s (wrbits n s)

/-- WRCLOSE (43_bitstream.md R165). -/
def execWrclose (s : State) : Host.Outcome State Fault Refusal :=
  finish s (doneOrHold (closeWriter s))

/-- RDBIT (43_bitstream.md R166). -/
def execRdbit (s : State) : Host.Outcome State Fault Refusal := finish s (rdbit s)

/-- RDRESET (43_bitstream.md R167). -/
def execRdreset (s : State) : Host.Outcome State Fault Refusal := finish s (.done (emptyReader s))

end Sys2Proof.Machine
end

