-- ==== Sys2Proof/Machine/Tree.lean ====
section
/-! DEFINITION. The decode tree, symbol encode and symbol decode: BLDTREE, ENCSYM and DECSYM
(42_huffman_tree.md). -/

namespace Sys2Proof.Machine

/-! ## Building the tree (R140) -/

/-- `T[cur].left <- k` for a 0 bit, `T[cur].right <- k` for a 1 bit (R140). -/
def setChild (tree : List Node) (cur : Nat) (b : Bool) (k : Nat) : List Node :=
  tree.modify cur fun node => if b then { node with right := some k } else { node with left := some k }

/-- `T[cur].sym <- s` (R140). -/
def setSym (tree : List Node) (cur : Nat) (s : Fin 256) : List Node :=
  tree.modify cur fun node => { node with sym := some s }

/-- The walk of R140 along bits `i-1` down to 0 of a code, creating nodes on demand: the arena and
the node the walk ends at. -/
def insertPath (code : Word) : Nat → List Node → Nat → List Node × Nat
  | 0, tree, cur => (tree, cur)
  | i + 1, tree, cur =>
    match childOf tree cur (code.getLsbD i) with
    | some k => insertPath code i tree k
    | none =>
      insertPath code i (setChild (tree ++ [Node.fresh]) cur (code.getLsbD i) tree.length)
        tree.length

/-- One symbol of R140: nothing for a length of 0, else the walk and the mark at its end. -/
def insertSymbol (len : Table 8) (code : Table 32) (tree : List Node) (s : Nat) : List Node :=
  if len.read s = 0 then tree
  else
    let r := insertPath (code.read s) (len.read s).toNat tree 0
    setSym r.1 r.2 (Fin.ofNat 256 s)

/-- `buildDecodingTree(codeLength[size], codeBits[size]) -> tree` (R140), in ascending symbol
order. -/
def buildDecodingTree (len : Table 8) (code : Table 32) (n : Nat) : List Node :=
  (List.range n).foldl (insertSymbol len code) [Node.fresh]

/-- The body of BLDTREE (R140). -/
def bldtree (s : State) : Ending :=
  if s.codesValid then
    .done { s with tree := buildDecodingTree s.len s.code s.size }.treeBuilt
  else .error .notReady s

/-! ## Encoding and decoding one symbol (R142, R143) -/

/-- The body of ENCSYM (R142). -/
def encsym (sym : Nat) (s : State) : Ending :=
  if s.symInRange sym then
    if s.codesValid then
      if s.lenAt sym = 0 then .error .unusedSym s
      else doneOrHold (writeBits (s.codeAt sym) (s.lenAt sym) s)
    else .error .notReady s
  else .error .symRange s

/-- The loop of R143 from node `cur`. Every turn takes a bit from the reader, so a fuel above
`State.availableBits` never runs out. -/
def decodeWalk : Nat → Nat → State → Ending
  | 0, _, _ => .hold
  | fuel + 1, cur, s =>
    match readBit s with
    | .hold => .hold
    | .endOfStream => .error .endOfStream s
    | .bit b t =>
      match childOf t.tree cur b with
      | none => .error .invalidCode t
      | some k =>
        match symOf t.tree k with
        | none => decodeWalk fuel k t
        | some sym => .done { t with result := BitVec.ofNat 32 sym.val }

/-- The body of DECSYM (R143). -/
def decsym (s : State) : Ending :=
  if s.treeValid then decodeWalk (s.availableBits + 1) 0 s else .error .notReady s

/-! ## The meanings -/

/-- BLDTREE (42_huffman_tree.md R140). -/
def execBldtree (s : State) : Host.Outcome State Fault Refusal := finish s (bldtree s)

/-- ENCSYM SYM (42_huffman_tree.md R142). -/
def execEncsym (sym : Nat) (s : State) : Host.Outcome State Fault Refusal :=
  finish s (encsym sym s)

/-- DECSYM (42_huffman_tree.md R143). -/
def execDecsym (s : State) : Host.Outcome State Fault Refusal := finish s (decsym s)

end Sys2Proof.Machine
end

