-- ==== Sys2Proof/Machine/Dispatch.lean ====
section
/-! DEFINITION. The dispatch of a decoded command to its meaning, one arm per row of
spec/opcode_table.json. -/

namespace Sys2Proof.Machine

def exec (i : Instr) (s : State) : Host.Outcome State Fault Refusal :=
  match i with
  | .nop => Sys2Proof.Machine.execNop s
  | .srst => Sys2Proof.Machine.execSrst s
  | .clrerr => Sys2Proof.Machine.execClrerr s
  | .frqclr => Sys2Proof.Machine.execFrqclr s
  | .frqinc sym => Sys2Proof.Machine.execFrqinc sym s
  | .bldlen => Sys2Proof.Machine.execBldlen s
  | .bldcan => Sys2Proof.Machine.execBldcan s
  | .bldtree => Sys2Proof.Machine.execBldtree s
  | .wrbits n => Sys2Proof.Machine.execWrbits n s
  | .wrclose => Sys2Proof.Machine.execWrclose s
  | .encsym sym => Sys2Proof.Machine.execEncsym sym s
  | .rdbit => Sys2Proof.Machine.execRdbit s
  | .decsym => Sys2Proof.Machine.execDecsym s
  | .rdreset => Sys2Proof.Machine.execRdreset s

end Sys2Proof.Machine
end

