-- ==== Sys2Proof/Machine/Window.lean ====
section
/-! DEFINITION. The host's side: the register map and what a host read or write does (20_memory.md
R60 to R69). -/

namespace Sys2Proof.Machine

/-- The registers of the window (20_memory.md R62). -/
inductive Reg where
  | id
  | version
  | ctrl
  | status
  | cmd
  | data
  | result
  | inData
  | inCtrl
  | outData
  | fifoStat
  | freq (i : Fin 256)
  | len (i : Fin 256)
  | code (i : Fin 256)
deriving DecidableEq, Repr

/-- The offset of a register (20_memory.md R62). -/
def Reg.offset : Reg → BitVec 12
  | .id => 0x000
  | .version => 0x004
  | .ctrl => 0x008
  | .status => 0x00C
  | .cmd => 0x010
  | .data => 0x014
  | .result => 0x018
  | .inData => 0x01C
  | .inCtrl => 0x020
  | .outData => 0x024
  | .fifoStat => 0x028
  | .freq i => BitVec.ofNat 12 (0x400 + 4 * i.val)
  | .len i => BitVec.ofNat 12 (0x800 + 4 * i.val)
  | .code i => BitVec.ofNat 12 (0xC00 + 4 * i.val)

/-- The register below offset 0x400 at an aligned offset; 0x02C to 0x3FC are unmapped (R61, R62). -/
def controlRegAt : Nat → Except BusError Reg
  | 0x000 => .ok .id
  | 0x004 => .ok .version
  | 0x008 => .ok .ctrl
  | 0x00C => .ok .status
  | 0x010 => .ok .cmd
  | 0x014 => .ok .data
  | 0x018 => .ok .result
  | 0x01C => .ok .inData
  | 0x020 => .ok .inCtrl
  | 0x024 => .ok .outData
  | 0x028 => .ok .fifoStat
  | _ => .error .unmapped

/-- The table entry at an aligned offset of 0x400 or more (R69). -/
def tableRegAt (off : Nat) : Reg :=
  let i := Fin.ofNat 256 (off / 4)
  if off < 0x800 then .freq i else if off < 0xC00 then .len i else .code i

/-- The register at an offset, or why the access ends in busFault (R61, R62). -/
def regAt (off : BitVec 12) : Except BusError Reg :=
  if off.toNat % 4 ≠ 0 then .error .misaligned
  else if off.toNat < 0x400 then controlRegAt off.toNat
  else .ok (tableRegAt off.toNat)

/-- `off = address - BASE` for a bus address inside the window (R60). -/
def busOffset (addr : Nat) : Option (BitVec 12) :=
  if Config.base ≤ addr ∧ addr < Config.base + 4096 then
    some (BitVec.ofNat 12 (addr - Config.base))
  else none

/-- The window offset of a place, or the fault of an address outside the window (R60, log entry 4). -/
def Place.resolve : Place → Except Fault (BitVec 12)
  | .offset off => .ok off
  | .bus addr =>
    match busOffset addr with
    | some off => .ok off
    | none => .error .outsideWindow

/-- The access checks of R61, which come before any effect: the register, or the fault. The order
among them is the model's (log entry 5). -/
def checkAccess (w : Width) (p : Place) : Except Fault Reg :=
  match p.resolve with
  | .error f => .error f
  | .ok off =>
    if w = .w32 then
      match regAt off with
      | .error why => .error (.busFault why)
      | .ok r => .ok r
    else .error (.busFault .width)

/-! ## Reads (R63, R68) -/

/-- The value of OUT_DATA: VALID in bit 8 and the oldest output byte, or 0 (R68). -/
def outDataValue (s : State) : Word :=
  match s.outq with
  | [] => 0
  | b :: _ => 0x100 ||| b.setWidth 32

/-- What a host read of a register returns (R62, R63). -/
def readValue : Reg → State → Word
  | .id, _ => 0x504B4343
  | .version, _ => 0x00000001
  | .ctrl, s => s.ctrl
  | .status, s => s.status
  | .cmd, _ => 0
  | .data, s => s.data
  | .result, s => s.result
  | .inData, _ => 0
  | .inCtrl, _ => 0
  | .outData, s => outDataValue s
  | .fifoStat, s => s.fifoStatRead
  | .freq i, s => s.freq.read i.val
  | .len i, s => (s.len.read i.val).setWidth 32
  | .code i, s => s.code.read i.val

/-- The side effect of a host read: OUT_DATA pops the oldest output byte, and no other read changes
anything (R63, R68). -/
def readEffect : Reg → State → State
  | .outData, s => { s with outq := s.outq.tail }
  | .id, s => s
  | .version, s => s
  | .ctrl, s => s
  | .status, s => s
  | .cmd, s => s
  | .data, s => s
  | .result, s => s
  | .inData, s => s
  | .inCtrl, s => s
  | .fifoStat, s => s
  | .freq _, s => s
  | .len _, s => s
  | .code _, s => s

/-- A host read: its side effect, and the value it returns on the read log (log entry 7). -/
def readRegister (r : Reg) (s : State) : State :=
  { readEffect r s with readLog := s.readLog ++ [readValue r s] }

/-! ## Writes (R64 to R67, R69) -/

/-- `acceptCmd(v)` (R65, 60_exceptions.md R184). -/
def acceptCmd (v : Word) (s : State) : State :=
  if s.busy then recordError .cmdBusy s
  else if s.err && v != 0x00000001 && v != 0x00000002 then s
  else { s with pending := some v }

/-- `pushIn(v)` (R66). -/
def pushIn (v : Word) (s : State) : State :=
  if s.inClosed = true ∨ s.inq.length = Config.inDepth then { s with inDrop := true }
  else { s with inq := s.inq ++ [v.setWidth 8] }

/-- A write of IN_CTRL: bit 0 closes the input (R67). -/
def closeInput (v : Word) (s : State) : State :=
  if v.getLsbD 0 then { s with inClosed := true } else s

/-- A write that a pending command bars: it is dropped and E_WRITE_BUSY recorded (R64). -/
def unlessBusy (t s : State) : State := if s.busy then recordError .writeBusy s else t

/-- The CTRL write of 10_state.md R24: write-any-read-legal. -/
def writeSize (v : Word) (s : State) : State :=
  if 1 ≤ v.toNat % 512 ∧ v.toNat % 512 ≤ 256 then
    { s with size := v.toNat % 512 }.invalidate
  else s

/-- A write of LEN[i]: bits 7:0 are stored, and both valid bits fall (R69). -/
def writeLen (i : Nat) (v : Word) (s : State) : State :=
  { s with len := s.len.write i (v.setWidth 8) }.invalidate

/-- What a host write of `v` to a register does (R62, R64). -/
def writeRegister : Reg → Word → State → State
  | .cmd, v, s => acceptCmd v s
  | .inData, v, s => pushIn v s
  | .inCtrl, v, s => closeInput v s
  | .ctrl, v, s => unlessBusy (writeSize v s) s
  | .data, v, s => unlessBusy { s with data := v } s
  | .freq i, v, s => unlessBusy { s with freq := s.freq.write i.val v } s
  | .len i, v, s => unlessBusy (writeLen i.val v s) s
  | .id, _, s => s
  | .version, _, s => s
  | .status, _, s => s
  | .result, _, s => s
  | .outData, _, s => s
  | .fifoStat, _, s => s
  | .code _, _, s => s

/-- One host access: a next state, or a host fault (00_scope.md R10, 60_exceptions.md R191). -/
def hostAccess (a : Access) (s : State) : Host.Outcome State Fault Refusal :=
  match a with
  | .read w p =>
    match checkAccess w p with
    | .error f => .fault f
    | .ok r => .next (readRegister r s)
  | .write w p v =>
    match checkAccess w p with
    | .error f => .fault f
    | .ok r => .next (writeRegister r v s)

end Sys2Proof.Machine
end

