-- ==== Sys2Proof/Machine/Engine.lean ====
section
/-! DEFINITION. One engine step on the pending word (10_state.md R22), and whose turn it is
(20_memory.md R76). -/

namespace Sys2Proof.Machine

/-- Executing a word that decodes to ILLEGAL raises E_ILLEGAL and changes nothing else
(30_encoding.md R93, R95). -/
def illegalCommand (s : State) : Host.Outcome State Fault Refusal := finish s (.error .illegal s)

/-- The engine executes the word `w` (30_encoding.md R93). -/
def runWord (w : Word) (s : State) : Host.Outcome State Fault Refusal :=
  match decode w with
  | .ok i => exec i s
  | .error _ => illegalCommand s

/-- One turn of the engine: it executes the pending word; with PENDING empty it is not enabled and
takes no step, so nothing changes (10_state.md R22, 60_exceptions.md R198). -/
def engineTurn (s : State) : Host.Outcome State Fault Refusal :=
  match s.pending with
  | none => .next s
  | some w => runWord w s

/-- The turn at the head of the agenda is taken; with the agenda empty the turn is the engine's (log
entry 6). -/
def takeTurn (s : State) : Host.Outcome State Fault Refusal :=
  match s.agenda with
  | [] => engineTurn s
  | .engine :: rest => engineTurn { s with agenda := rest }
  | .host a :: rest => hostAccess a { s with agenda := rest }

/-- The agenda with the engine's turn made the next one; an empty agenda already gives the engine the
next turn. -/
def engineNext : List Turn → List Turn
  | [] => []
  | t :: rest => .engine :: t :: rest

/-- The state in which the engine's turn is next and its pending word is `w`. -/
def submit (w : Word) (s : State) : State :=
  { s with pending := some w, agenda := engineNext s.agenda }

end Sys2Proof.Machine
end

