-- ==== Sys2Proof/Machine/Step.lean ====
section
/-! DEFINITION. The step of the machine, and where it fetches its next command: the PENDING slot
(10_state.md R22; log entry 14). -/

namespace Sys2Proof.Machine

/-- One step of a run: one engine step or one host access (00_scope.md R6, 20_memory.md R76). -/
def step (s : State) : Host.Outcome State Fault Refusal := takeTurn s

/-- The state whose next step executes the command word that an opcode-table row's bits give. -/
def State.withFetchWord (s : State) (nbits w : Nat) : State := submit (tableWord nbits w) s

end Sys2Proof.Machine
end

