-- ==== Sys2Proof/Machine/Script.lean ====
section
/-! DEFINITION. Host programs: the script notation of 30_encoding.md R98, the pseudo-instructions of
R99, and a run of a host program beside the engine (70_reset_and_hazards.md R212, R221). The notation's
gaps are filled as log entry 13 says. -/

namespace Sys2Proof.Machine

/-- A value `<v>` of a statement: a number, or a name whose value was read before. R98 does not say that
it can be a name, and 95_test_vectors.md V-M11 writes `W LEN[0], v`. DEDUCED (log entry 20): it can be one
wherever a statement takes a value. -/
inductive HostValue where
  | const (v : Word)
  | name (n : String)
deriving DecidableEq, Repr

/-- A statement of a host script: R98's, then the pseudo-instructions of R99. -/
inductive Line where
  /-- `W <reg>, <v>`. -/
  | write (r : Reg) (v : HostValue)
  /-- `R <reg> -> <name>`, or `R <reg>` alone. -/
  | read (r : Reg) (name : Option String)
  /-- `C <mnemonic> [<operand>]`. -/
  | command (i : Instr)
  /-- `<label>:`. -/
  | label (l : String)
  /-- `IF <name>[<hi>:<lo>] = <v> GOTO <label>`. -/
  | ifGoto (name : String) (hi lo : Nat) (v : HostValue) (l : String)
  /-- `GOTO <label>`. -/
  | goto (l : String)
  /-- `REPEAT <n>` with the statements it encloses. -/
  | times (n : Nat) (body : List Line)
  /-- `WAIT`. -/
  | wait
  /-- `X <mnemonic> [<operand>]`. -/
  | execute (i : Instr)
  /-- `PUTBITS <n>, <v>`. -/
  | putBits (n : Nat) (v : HostValue)
  /-- `PUSH <b0>, <b1>, ...`. -/
  | push (bytes : List HostValue)
  /-- `CLOSE`. -/
  | close
  /-- `POP -> <name>`. -/
  | pop (name : String)
  /-- `DRAIN -> <list>`. -/
  | drain (list : String)
  /-- `LOADLEN <l0>, ..., <lk-1>`. -/
  | loadLen (lens : List HostValue)
  /-- `CHECK`. -/
  | check
deriving Repr

/-- Where a jump of an expanded program goes: a label, or a distance in operations. -/
inductive Target where
  | label (l : String)
  | by (d : Int)
deriving DecidableEq, Repr

/-- One operation of an expanded program. -/
inductive HostOp where
  | write (r : Reg) (v : HostValue)
  | read (r : Reg) (name : Option String)
  | mark (l : String)
  | branch (name : String) (hi lo : Nat) (v : HostValue) (dest : Target)
  | jump (dest : Target)
  | append (name : String) (hi lo : Nat) (list : String)
  | failIf (name : String) (hi lo : Nat) (v : HostValue)
deriving DecidableEq, Repr

/-- The scratch name `t` of R99: the empty string, which no program names. -/
def scratch : String := ""

/-- A write of a number. -/
def writeOp (r : Reg) (v : Word) : HostOp := .write r (.const v)

/-- `C <mnemonic>` is a write of the command's word to CMD (R98). For an operand too wide for its field,
as in `ENCSYM 256` or `WRBITS 64`, R98 gives no word. DESIGN CHOICE (log entry 13): the operand runs on
into the bits above its field, and the word that results is written. -/
def submitOp (i : Instr) : HostOp := writeOp .cmd (encode i)

/-- The expansion of WAIT (R99): read STATUS until BUSY is 0. R99 does not say whether a program can jump
to the label `w` inside it. DESIGN CHOICE (log entry 13): it cannot, the jump being a distance. -/
def waitOps : List HostOp :=
  [.read .status (some scratch), .branch scratch 0 0 (.const 1) (.by (-1))]

/-- The expansion of `X` (R99). -/
def executeOps (i : Instr) : List HostOp := submitOp i :: waitOps

/-- The expansion of DRAIN (R99): pop OUT_DATA until VALID is 0. R99 does not say whether a program can jump
to the labels `d` and `e` of it. DESIGN CHOICE (log entry 13): it cannot, the jumps being distances. -/
def drainOps (list : String) : List HostOp :=
  [.read .outData (some scratch), .branch scratch 8 8 (.const 0) (.by 3), .append scratch 7 0 list,
   .jump (.by (-3))]

/-- The expansion of LOADLEN (R99). LEN[256] is no register, and the spec is silent on a list of more than
256 lengths. DESIGN CHOICE (log entry 13): from the 257th on the writes begin again at LEN[0]. -/
def loadLenOps (lens : List HostValue) : List HostOp :=
  writeOp .ctrl (BitVec.ofNat 32 lens.length) ::
    lens.zipIdx.map fun p => .write (.len (Fin.ofNat 256 p.2)) p.1

/-- How many operations stand before a label. The spec is silent on a label that stands twice in one
block. DESIGN CHOICE (log entry 13): the first is meant. -/
def labelPosition (l : String) : Nat → List HostOp → Option Nat
  | _, [] => none
  | k, .mark m :: rest => if m = l then some k else labelPosition l k rest
  | k, _ :: rest => labelPosition l (k + 1) rest

/-- The distance from operation `k` to a target inside `block`; a label the block does not hold is
left for the block around it. -/
def Target.resolve (block : List HostOp) (k : Nat) : Target → Target
  | .by d => .by d
  | .label l =>
    match labelPosition l 0 block with
    | some p => .by ((p : Int) - (k : Int))
    | none => .label l

/-- A block with its own labels turned into distances and dropped. -/
def resolveBlock (block : List HostOp) : Nat → List HostOp → List HostOp
  | _, [] => []
  | k, .mark _ :: rest => resolveBlock block k rest
  | k, .branch n hi lo v dest :: rest =>
    .branch n hi lo v (dest.resolve block k) :: resolveBlock block (k + 1) rest
  | k, .jump dest :: rest => .jump (dest.resolve block k) :: resolveBlock block (k + 1) rest
  | k, op :: rest => op :: resolveBlock block (k + 1) rest

mutual

/-- The expansion of one statement (R98, R99). -/
def Line.expand : Line → List HostOp
  | .write r v => [.write r v]
  | .read r n => [.read r n]
  | .command i => [submitOp i]
  | .label l => [.mark l]
  | .ifGoto n hi lo v l => [.branch n hi lo v (.label l)]
  | .goto l => [.jump (.label l)]
  | .times n body =>
    (List.replicate n (resolveBlock (expandLines body) 0 (expandLines body))).flatten
  | .wait => waitOps
  | .execute i => executeOps i
  | .putBits n v => .write .data v :: executeOps (.wrbits n)
  | .push bytes => bytes.map (HostOp.write .inData)
  | .close => [writeOp .inCtrl 1]
  | .pop n => [.read .outData (some n)]
  | .drain l => drainOps l
  | .loadLen lens => loadLenOps lens
  | .check => [.read .status (some scratch), .failIf scratch 1 1 (.const 1)]

/-- The expansion of a block of statements. -/
def expandLines : List Line → List HostOp
  | [] => []
  | l :: rest => l.expand ++ expandLines rest

end

/-- A host script as the operations it expands to, its labels resolved. -/
def assemble (script : List Line) : List HostOp :=
  resolveBlock (expandLines script) 0 (expandLines script)

/-- A run of a host program beside the engine: the program, the next operation, the values read, the
lists drained, whether CHECK stopped it, and the machine. -/
structure HostRun where
  program : List HostOp
  here    : Nat
  names   : List (String × Word)
  lists   : List (String × List Byte)
  failed  : Bool
  machine : State
deriving DecidableEq, Repr

/-- The run of a script from a machine state. -/
def HostRun.start (script : List Line) (s : State) : HostRun :=
  HostRun.mk (assemble script) 0 [] [] false s

/-- The word a value stands for: itself, or the value last read into its name (R98; log
entries 13 and 20). -/
def HostRun.valueOf (h : HostRun) : HostValue → Word
  | .const v => v
  | .name n => (h.names.lookup n).getD 0

/-- The field `name[hi:lo]` of the value last read into a name (R98, 00_scope.md R8). -/
def HostRun.field (h : HostRun) (name : String) (hi lo : Nat) : Nat :=
  (h.valueOf (.name name)).toNat / 2 ^ lo % 2 ^ (hi + 1 - lo)

/-- The bytes drained into a list. -/
def HostRun.drained (h : HostRun) (list : String) : List Byte := (h.lists.lookup list).getD []

/-- The program goes on at a target; a label nothing names ends it. -/
def HostRun.goTo (h : HostRun) : Target → HostRun
  | .by d => { h with here := ((h.here : Int) + d).toNat }
  | .label _ => { h with here := h.program.length }

/-- The program goes on at the next operation. -/
def HostRun.advance (h : HostRun) : HostRun := { h with here := h.here + 1 }

/-- The program goes on after an access, with the value read kept under a name. -/
def HostRun.afterAccess (h : HostRun) (name : Option String) :
    Host.Outcome State Fault Refusal → Host.Outcome HostRun Fault Refusal
  | .fault f => .fault f
  | .refused r => .refused r
  | .next s =>
    match name with
    | none => .next { h with machine := s }.advance
    | some n => .next { h with machine := s, names := (n, s.readLog.getLast?.getD 0) :: h.names }.advance

/-- The host's turn: the next operation of its program. A `W` or `R` is one register access; the
other operations take a turn and touch no register. DESIGN CHOICE (log entry 13). After the last one the
host does nothing. -/
def HostRun.hostTurn (h : HostRun) : Host.Outcome HostRun Fault Refusal :=
  if h.failed then .next h
  else
    match h.program[h.here]? with
    | none => .next h
    | some (.write r v) =>
      h.afterAccess none (hostAccess (.write .w32 (.offset r.offset) (h.valueOf v)) h.machine)
    | some (.read r n) =>
      h.afterAccess n (hostAccess (.read .w32 (.offset r.offset)) h.machine)
    | some (.mark _) => .next h.advance
    | some (.branch n hi lo v dest) =>
      .next (if h.field n hi lo = (h.valueOf v).toNat then h.goTo dest else h.advance)
    | some (.jump dest) => .next (h.goTo dest)
    | some (.append n hi lo l) =>
      .next { h with lists := (l, h.drained l ++ [BitVec.ofNat 8 (h.field n hi lo)]) :: h.lists }.advance
    | some (.failIf n hi lo v) =>
      .next (if h.field n hi lo = (h.valueOf v).toNat then { h with failed := true } else h.advance)

/-- The engine's turn beside a host program. -/
def HostRun.engineTurn (h : HostRun) : Host.Outcome HostRun Fault Refusal :=
  match Sys2Proof.Machine.engineTurn h.machine with
  | .next s => .next { h with machine := s }
  | .fault f => .fault f
  | .refused r => .refused r

/-- The end of a run: the program has executed its last statement and PENDING is empty
(70_reset_and_hazards.md R221). R221 does not speak of a program that a CHECK stopped before its last
statement. DESIGN CHOICE (log entry 13): it executes nothing more, so its run ends too once PENDING is
empty. -/
def HostRun.ended (h : HostRun) : Bool :=
  (h.failed || decide (h.program.length ≤ h.here)) && !h.machine.busy

end Sys2Proof.Machine
end

