-- ==== Sys2Proof/Safety.lean ====
section
/-! DEFINITION. The terms claims about PKCC-HEE use: the invariant of 10_state.md R45, the two bit
streams as lists of bits (20_memory.md R71), the codes a state holds, and the paths of TREE. -/

namespace Sys2Proof.Machine

/-! ## Bits in stream order -/

/-- The `n` low bits of `v`, the most significant of them first (20_memory.md R71). -/
def lowBits {w : Nat} (v : BitVec w) : Nat → List Bool
  | 0 => []
  | n + 1 => v.getLsbD n :: lowBits v n

/-- The bits of a list of stream bytes, bit 7 of the first byte first (20_memory.md R71). -/
def streamBits (bytes : List Byte) : List Bool := bytes.flatMap fun b => lowBits b 8

/-- The bits written and not yet popped by the host: OUTQ, then the accumulator (10_state.md R40,
R44). -/
def State.writtenBits (s : State) : List Bool := streamBits s.outq ++ lowBits s.wacc s.wn

/-- The bits pushed and not yet read: the rest of RBYTE, then INQ (10_state.md R42, R43). -/
def State.unreadBits (s : State) : List Bool := lowBits s.rbyte s.rn ++ streamBits s.inq

/-- The code of a symbol: the LEN low bits of CODE, most significant first (10_state.md R39). -/
def State.codeBits (s : State) (sym : Nat) : List Bool := lowBits (s.codeAt sym) (s.lenAt sym)

/-- A symbol ENCSYM can write once the codes are valid: below SIZE, with a nonzero length
(42_huffman_tree.md R142). -/
def State.coded (s : State) (sym : Nat) : Prop := sym < s.size ∧ s.lenAt sym ≠ 0

/-- The writer and OUTQ have room for `n` more bits: the bytes they complete fit the free places
(70_reset_and_hazards.md R213). -/
def State.roomFor (s : State) (n : Nat) : Prop :=
  (s.wn + n) / 8 ≤ Config.outDepth - s.outq.length

/-! ## The Kraft sum (41_huffman_build.md R126) -/

/-- 2^m times the Kraft sum of the code lengths of a list of symbols, for lengths of at most `m`. -/
def State.kraft (s : State) (m : Nat) (syms : List Nat) : Nat :=
  (syms.map fun i => if s.lenAt i = 0 then 0 else 2 ^ (m - s.lenAt i)).sum

/-- The symbols below SIZE with a nonzero frequency (41_huffman_build.md R122). -/
def State.countedSymbols (s : State) : List Nat :=
  (List.range s.size).filter fun i => decide (s.freqAt i ≠ 0)

/-- The total length, in code bits, of a text that has each counted symbol as often as FREQ says, for the
code lengths `lens` (41_huffman_build.md R122). -/
def State.textLength (s : State) (lens : Nat → Nat) : Nat :=
  (s.countedSymbols.map fun i => s.freqAt i * lens i).sum

/-- The symbols BLDCAN handles before `sym`: those used, with the smaller pair of length and symbol
(41_huffman_build.md R126). -/
def State.codedBefore (s : State) (sym : Nat) : List Nat :=
  (List.range s.size).filter fun i =>
    decide (s.lenAt i ≠ 0 ∧ (s.lenAt i < s.lenAt sym ∨ s.lenAt i = s.lenAt sym ∧ i < sym))

/-! ## Paths of TREE (42_huffman_tree.md R140, R143) -/

/-- The node a path of bits leads to from node `cur`, if every child on it exists. -/
def nodeAt (tree : List Node) : Nat → List Bool → Option Nat
  | cur, [] => some cur
  | cur, b :: rest => (childOf tree cur b).bind fun k => nodeAt tree k rest

/-- A path that leads from the root to a node with a symbol. -/
def leafAt (tree : List Node) (path : List Bool) : Option (Fin 256) :=
  (nodeAt tree 0 path).bind (symOf tree)

/-! ## The invariant (10_state.md R45) -/

/-- R45 (d), second half: CODE[0..SIZE-1] is what BLDCAN computes from LEN[0..SIZE-1]. -/
def State.codesMatch (s : State) : Prop :=
  ∃ codes, buildCanonicalCodes s.len s.size = .ok codes ∧
    ∀ i, i < s.size → s.codeAt i = BitVec.ofNat 32 (valueFor codes i)

/-- What holds of every reachable state: 10_state.md R45 (a) to (f), the legal range of SIZE (R24),
the capacity of the arena (R41), and that no reserved error code is reported (60_exceptions.md
R181). -/
structure Inv (s : State) : Prop where
  size_legal    : 1 ≤ s.size ∧ s.size ≤ 256
  writer        : s.wn ≤ 7 ∧ s.wacc.toNat < 2 ^ s.wn
  reader        : s.rn ≤ 8
  fifos         : s.inq.length ≤ Config.inDepth ∧ s.outq.length ≤ Config.outDepth
  codes         : s.codesValid = true → (∀ i, i < s.size → s.lenAt i ≤ 32) ∧ s.codesMatch
  tree_current  : s.treeValid = true →
    s.codesValid = true ∧ s.tree = buildDecodingTree s.len s.code s.size
  errors        : s.err = false ↔ s.errcode = 0
  arena         : s.tree.length ≤ Config.nodeCap
  code_assigned : s.errcode.toNat ≤ 14

/-! ## What a step executes -/

/-- The engine has the next turn. -/
def State.engineHasTurn (s : State) : Prop := s.agenda = [] ∨ ∃ rest, s.agenda = .engine :: rest

/-- The engine has the next turn and its pending word decodes to `i` (10_state.md R22). -/
def State.executes (s : State) (i : Instr) : Prop :=
  (∃ w, s.pending = some w ∧ decode w = .ok i) ∧ s.engineHasTurn

/-- The host has the next turn and writes `v` to the register `r`. -/
def State.hostWrites (s : State) (r : Reg) (v : Word) : Prop :=
  ∃ p rest, s.agenda = .host (.write .w32 p v) :: rest ∧ checkAccess .w32 p = .ok r

/-- The host has the next turn and reads the register `r`. -/
def State.hostReads (s : State) (r : Reg) : Prop :=
  ∃ p rest, s.agenda = .host (.read .w32 p) :: rest ∧ checkAccess .w32 p = .ok r

/-- What a command that fails with error number `code` leaves of `s`, where the error changes nothing
else: PENDING empty, ERR set, and ERRCODE the first number since the last clear (60_exceptions.md R183,
R185). -/
def State.failed (s : State) (code : Byte) : State :=
  { s with pending := none, err := true, errcode := if s.err then s.errcode else code }

/-- A bit path of `s` that is still inside some symbol's code: empty, or a code's proper beginning. -/
def State.insideCode (s : State) (path : List Bool) : Prop :=
  path = [] ∨ ∃ sym, s.coded sym ∧ path <+: s.codeBits sym ∧ path ≠ s.codeBits sym

/-! ## Encoding and decoding a sequence (42_huffman_tree.md R144) -/

/-- ENCSYM of each symbol in turn, each completing; none when one holds or fails. -/
def encodeAll : List Nat → State → Option State
  | [], s => some s
  | sym :: rest, s =>
    match encsym sym s with
    | .done t => encodeAll rest t
    | .hold => none
    | .error _ _ => none

/-- `n` DECSYM in turn, each completing: the values RESULT took, and the state after. -/
def decodeAll : Nat → State → Option (List Word × State)
  | 0, s => some ([], s)
  | n + 1, s =>
    match decsym s with
    | .done t => (decodeAll n t).map fun r => (t.result :: r.1, r.2)
    | .hold => none
    | .error _ _ => none

/-! ## Coding a stream longer than the FIFOs (42_huffman_tree.md R144) -/

/-- What happens at the encoder: the engine executes an ENCSYM, or the host reads OUT_DATA. -/
inductive EncodeTurn where
  | encode (sym : Nat)
  | pop
deriving DecidableEq, Repr

/-- What happens at the decoder: the engine executes a DECSYM, or the host writes IN_DATA or closes the
input. -/
inductive DecodeTurn where
  | decode
  | push (b : Byte)
  | close
deriving DecidableEq, Repr

/-- The turns at the encoder in order: the symbols whose ENCSYM completed, the bytes popped, and the state
after. An ENCSYM that holds changes nothing and is executed again by a later turn; none when one fails. -/
def encodeRun : List EncodeTurn → State → Option (List Nat × List Byte × State)
  | [], s => some ([], [], s)
  | .encode sym :: rest, s =>
    match encsym sym s with
    | .done t => (encodeRun rest t).map fun r => (sym :: r.1, r.2)
    | .hold => encodeRun rest s
    | .error _ _ => none
  | .pop :: rest, s =>
    (encodeRun rest (readRegister .outData s)).map fun r => (r.1, s.outq.take 1 ++ r.2.1, r.2.2)

/-- The turns at the decoder in order: the values RESULT took, and the state after. A DECSYM that holds
changes nothing and is executed again by a later turn; none when one fails or when a byte is dropped. -/
def decodeRun : List DecodeTurn → State → Option (List Word × State)
  | [], s => some ([], s)
  | .decode :: rest, s =>
    match decsym s with
    | .done t => (decodeRun rest t).map fun r => (t.result :: r.1, r.2)
    | .hold => decodeRun rest s
    | .error _ _ => none
  | .push b :: rest, s =>
    if s.inClosed = true ∨ s.inq.length = Config.inDepth then none
    else decodeRun rest (writeRegister .inData (b.setWidth 32) s)
  | .close :: rest, s => decodeRun rest (writeRegister .inCtrl 1 s)

/-- The bytes a list of turns pushes, in order. -/
def pushedBytes (turns : List DecodeTurn) : List Byte :=
  turns.filterMap fun t =>
    match t with
    | .push b => some b
    | .decode => none
    | .close => none

/-- The machine's run from `s` through exactly the turns of `agenda`. -/
def State.runTurns (s : State) (agenda : List Turn) : Host.Outcome State Fault Refusal :=
  Host.Core.run Sys2Proof.core agenda.length { s with agenda := agenda }

/-- A run of the machine whose host performs exactly the turns of `agenda`, from power-on reset
(00_scope.md R6). -/
def runFromReset (agenda : List Turn) (n : Nat) : Host.Outcome State Fault Refusal :=
  Host.Core.run Sys2Proof.core n { State.reset with agenda := agenda }

end Sys2Proof.Machine
end

