-- ==== Sys2Proof/Certificates/Slice0/Obligations.lean ====
section
/-! DEFINITION. The statements about PKCC-HEE that the provers are asked to settle. -/

open Sys2Proof Sys2Proof.Machine

/-! ## Command words (30_encoding.md) -/

/-- Decoding the word of a well-formed command gives the command back (R91, R93, R94). -/
def Obligations.DecodeOfEncode : Prop :=
  ∀ i : Instr, i.wellFormed = true → decode (encode i) = .ok i

/-- A word that decodes is the word of the command it decodes to (R93, R94). -/
def Obligations.EncodeOfDecode : Prop :=
  ∀ (w : Word) (i : Instr), decode w = .ok i → i.wellFormed = true ∧ encode i = w

/-- A word decodes to a command exactly when it selects a row of the opcode map, and then it selects
that command's row and no other (R94). -/
def Obligations.DecodeSelectsOneOpcodeRow : Prop :=
  ∀ w : Word,
    (∀ i, decode w = .ok i →
      ∃ r, r ∈ opcodeMap ∧ r.name = mnemonicOf i ∧ r.selects w = true ∧
        ∀ q, q ∈ opcodeMap → q.selects w = true → q = r) ∧
    (∀ e, decode w = .error e → ∀ r, r ∈ opcodeMap → r.selects w = false)

/-- The illegal words are the ones R95 lists, and executing one raises E_ILLEGAL and changes nothing
else (R95, R93), but for the engine's turn taken off the agenda, in which the model writes the order of
turns (log entry 6). -/
def Obligations.IllegalWordsRaiseIllegal : Prop :=
  ∀ w : Word,
    ((∃ e, decode w = .error e) ↔
      zField w ≠ 0 ∨
      ((0x03 ≤ opField w ∧ opField w ≤ 0x07) ∨ (0x0A ≤ opField w ∧ opField w ≤ 0x0F) ∨
        (0x13 ≤ opField w ∧ opField w ≤ 0x1F) ∨ (0x23 ≤ opField w ∧ opField w ≤ 0x2F) ∨
        0x33 ≤ opField w) ∨
      (opField w ∈ [0x00, 0x01, 0x02, 0x08, 0x10, 0x11, 0x12, 0x21, 0x30, 0x31, 0x32] ∧
        aField w ≠ 0) ∨
      (opField w = 0x20 ∧ 64 ≤ aField w)) ∧
    ∀ (s : State) (e : Illegal), decode w = .error e → s.pending = some w → s.engineHasTurn →
      step s = .next ({ s with agenda := s.agenda.tail }.failed 0x01)

/-- The words of 95_test_vectors.md V-E1 to V-E11 decode as listed there. -/
def Obligations.VectorWordsDecode : Prop :=
  decode 0x00000322 = .ok (.encsym 3) ∧ decode 0x00000C20 = .ok (.wrbits 12) ∧
  decode 0x00002020 = .ok (.wrbits 32) ∧ decode 0x00002120 = .ok (.wrbits 33) ∧
  decode 0x00004020 = .error .reservedCount ∧ decode 0x00000100 = .error .operandGiven ∧
  decode 0x00010000 = .error .reservedField ∧ decode 0x00000003 = .error .unknownOpcode ∧
  decode 0x0000FF09 = .ok (.frqinc 255) ∧ decode 0x00000031 = .ok .decsym ∧
  decode 0xFFFFFFFF = .error .reservedField

/-! ## Steps (00_scope.md R6, R10, 10_state.md R22, 20_memory.md R76) -/

/-- When the engine has the turn and the pending word decodes to a command, the step is that command's
`exec`, with the engine's turn taken off the agenda (R22, R76); and the word `withFetchWord` places is the
one the next step runs. That an empty agenda gives the engine the turn is the model's choice (log entry
6), and so is where `withFetchWord` places a word (log entry 14). -/
def Obligations.StepRunsTheDecodedCommand : Prop :=
  (∀ (s : State) (w : Word) (i : Instr), s.pending = some w → decode w = .ok i →
    (s.agenda = [] → step s = exec i s) ∧
    ∀ rest, s.agenda = .engine :: rest → step s = exec i { s with agenda := rest }) ∧
  ∀ (s : State) (nbits w : Nat) (i : Instr), decode (tableWord nbits w) = .ok i →
    step (s.withFetchWord nbits w) = exec i { s with pending := some (tableWord nbits w) }

/-- A host turn is exactly one host access, on the state all earlier turns left, and the engine's turn
with PENDING empty changes nothing (R6, R22, R76). The agenda that orders the turns, and the engine's turn
on an empty one, are the model's choice (log entry 6). -/
def Obligations.HostTurnIsOneAccess : Prop :=
  ∀ (s : State) (rest : List Turn),
    (∀ a, s.agenda = .host a :: rest → step s = hostAccess a { s with agenda := rest }) ∧
    (s.pending = none → s.agenda = .engine :: rest → step s = .next { s with agenda := rest }) ∧
    (s.pending = none → s.agenda = [] → step s = .next s)

/-- Every command ends in a next state, whatever the state and the operand; no step is refused; and
only a host access faults. -/
def Obligations.EngineNeverRefuses : Prop :=
  (∀ (i : Instr) (s : State), ∃ t, exec i s = .next t) ∧
  (∀ (s : State) (r : Refusal), step s ≠ .refused r) ∧
  ∀ (s : State) (f : Fault), step s = .fault f → ∃ a rest, s.agenda = .host a :: rest

/-- A command that is still pending after its step has held: nothing at all has changed, and it is one
of the five commands that can hold (70_reset_and_hazards.md R213). -/
def Obligations.HoldChangesNothing : Prop :=
  ∀ (i : Instr) (s t : State), s.pending ≠ none → exec i s = .next t → t.pending ≠ none →
    t = s ∧ ((∃ n, i = .wrbits n) ∨ (∃ sym, i = .encsym sym) ∨ i = .wrclose ∨ i = .rdbit ∨ i = .decsym)

/-! ## Reset and the invariant (10_state.md R45, R46) -/

/-- The state after power-on reset, for every element to which R46 gives a value. -/
def Obligations.ResetValues : Prop :=
  State.reset.pending = none ∧ State.reset.data = 0 ∧ State.reset.size = 256 ∧
  State.reset.result = 0 ∧ State.reset.err = false ∧ State.reset.errcode = 0 ∧
  State.reset.eos = false ∧ State.reset.inClosed = false ∧ State.reset.inDrop = false ∧
  State.reset.codesValid = false ∧ State.reset.treeValid = false ∧ State.reset.wacc = 0 ∧
  State.reset.wn = 0 ∧ State.reset.rbyte = 0 ∧ State.reset.rn = 0 ∧ State.reset.inq = [] ∧
  State.reset.outq = [] ∧ State.reset.status = 0 ∧ State.reset.ctrl = 0x00000100 ∧
  State.reset.fifoStat = 0

/-- The invariant holds after power-on reset, whatever the tables' draws and whatever the host is about
to do. -/
def Obligations.ResetSatisfiesInv : Prop :=
  ∀ agenda : List Turn, Inv { State.reset with agenda := agenda }

/-- Every step, of the engine or of the host, keeps the invariant, from every state that has it. -/
def Obligations.StepKeepsInv : Prop := ∀ s t : State, Inv s → step s = .next t → Inv t

/-- Every state a run reaches from reset, under any schedule of host accesses and engine steps, has
the invariant (R45). -/
def Obligations.ReachableStatesSatisfyInv : Prop :=
  ∀ (agenda : List Turn) (n : Nat) (t : State), runFromReset agenda n = .next t → Inv t

/-! ## Control commands (40_control.md) -/

/-- The word 0 is NOP; NOP empties PENDING and changes nothing else; a NOP written to CMD while ERR = 1 is dropped; a word
with OP = 0 and a nonzero A or Z is ILLEGAL, not NOP (R110). -/
def Obligations.NopRule : Prop :=
  decode 0x00000000 = .ok .nop ∧
  (∀ s : State, exec .nop s = .next { s with pending := none }) ∧
  (∀ s : State, s.busy = false → s.err = true → s.hostWrites .cmd 0 →
    step s = .next { s with agenda := s.agenda.tail }) ∧
  ∀ w : Word, opField w = 0 → (aField w ≠ 0 ∨ zField w ≠ 0) → ∃ e, decode w = .error e

/-- The word 0x00000001 is SRST. SRST resets every element but FREQ, LEN, CODE and TREE; it is accepted while ERR = 1 and dropped
while another command is pending (R111). -/
def Obligations.SrstRule : Prop :=
  decode 0x00000001 = .ok .srst ∧
  (∀ s : State, exec .srst s = .next
    { s with
      pending := none, data := 0, size := 256, result := 0, err := false, errcode := 0
      eos := false, inClosed := false, inDrop := false, codesValid := false, treeValid := false
      wacc := 0, wn := 0, rbyte := 0, rn := 0, inq := [], outq := [] }) ∧
  (∀ s : State, s.busy = false → s.hostWrites .cmd 1 →
    step s = .next { s with pending := some 1, agenda := s.agenda.tail }) ∧
  ∀ s : State, s.busy = true → s.hostWrites .cmd 1 →
    ∃ t, step s = .next t ∧ t.pending = s.pending

/-- The word 0x00000002 is CLRERR. CLRERR clears ERR, ERRCODE and IN_DROP and nothing else, and is
accepted while ERR = 1 (R112). -/
def Obligations.ClrerrRule : Prop :=
  decode 0x00000002 = .ok .clrerr ∧
  (∀ s : State, exec .clrerr s = .next
    { s with pending := none, err := false, errcode := 0, inDrop := false }) ∧
  ∀ s : State, s.busy = false → s.hostWrites .cmd 2 →
    step s = .next { s with pending := some 2, agenda := s.agenda.tail }

/-! ## The frequency table and the code builder (41_huffman_build.md) -/

/-- The word 0x00000008 is FRQCLR. FRQCLR zeroes all 256 entries of FREQ and changes nothing else (R120). -/
def Obligations.FrqclrRule : Prop :=
  decode 0x00000008 = .ok .frqclr ∧
  ∀ s : State, ∃ t, exec .frqclr s = .next t ∧ (∀ i, i < 256 → t.freq.read i = 0) ∧
    t = { s with freq := t.freq, pending := none }

/-- A word with OP = 0x09 and Z = 0 is FRQINC of the symbol in A. FRQINC adds 1 to its entry and changes
nothing else, or fails with FREQ unchanged (R121). -/
def Obligations.FrqincRule : Prop :=
  (∀ sym, sym < 256 → decode (0x00000009 ||| BitVec.ofNat 32 sym <<< 8) = .ok (.frqinc sym)) ∧
  ∀ (s : State) (sym : Nat), s.size ≤ 256 →
    (s.size ≤ sym → exec (.frqinc sym) s = .next (s.failed 0x04)) ∧
    (sym < s.size → s.freq.read sym = 0xFFFFFFFF →
      exec (.frqinc sym) s = .next (s.failed 0x05)) ∧
    (sym < s.size → s.freq.read sym ≠ 0xFFFFFFFF →
      ∃ t, exec (.frqinc sym) s = .next t ∧ t.freq.read sym = s.freq.read sym + 1 ∧
        (∀ j, j ≠ sym → t.freq.read j = s.freq.read j) ∧
        t = { s with freq := t.freq, pending := none })

/-- `extractMin` takes out the node with the least weight, the oldest of those of equal weight, and
keeps the others in their order (R123); and merging so, BLDLEN gives lengths of least total length: no
lengths of at least 1 for the counted symbols, with Kraft sum at most 1, code the counted text in fewer
bits (R122, R123, R125). -/
def Obligations.ExtractMinTakesTheOldestLightest : Prop :=
  (∀ (q rest : List QNode) (m : QNode), extractMin q = some (m, rest) →
    (∃ xs ys, q = xs ++ m :: ys ∧ rest = xs ++ ys) ∧
    ∀ x, x ∈ q → m.weight < x.weight ∨ m.weight = x.weight ∧ m.seq ≤ x.seq) ∧
  ∀ s : State, s.size ≤ 256 → s.countedSymbols ≠ [] →
    ∃ t, exec .bldlen s = .next t ∧
      ∀ (m : Nat) (lens : Nat → Nat),
        (∀ i, i ∈ s.countedSymbols → 1 ≤ lens i ∧ lens i ≤ m) →
        (s.countedSymbols.map fun i => 2 ^ (m - lens i)).sum ≤ 2 ^ m →
        s.textLength t.lenAt ≤ s.textLength lens

/-- BLDLEN completes whenever some symbol below SIZE has been counted: it writes LEN below SIZE only,
gives a nonzero length exactly to the counted symbols, clears both valid bits, and changes nothing
else. With no counted symbol it raises E_FREQ_ZERO and changes nothing else; no other error occurs
(R122, R125). -/
def Obligations.BldlenCompletesWhenCounted : Prop :=
  ∀ s : State, s.size ≤ 256 →
    (s.countedSymbols ≠ [] →
      ∃ t, exec .bldlen s = .next t ∧
        t = { s with len := t.len, codesValid := false, treeValid := false, pending := none } ∧
        (∀ i, s.size ≤ i → t.len.read i = s.len.read i) ∧
        ∀ i, i < s.size → (t.lenAt i = 0 ↔ s.freqAt i = 0)) ∧
    (s.countedSymbols = [] → exec .bldlen s = .next (s.failed 0x06))

/-- The one counted symbol gets length 1 and every other symbol below SIZE length 0 (R124). -/
def Obligations.BldlenSingleSymbol : Prop :=
  ∀ (s : State) (sym : Nat), s.size ≤ 256 → s.countedSymbols = [sym] →
    ∃ t, exec .bldlen s = .next t ∧ t.lenAt sym = 1 ∧ ∀ i, i < s.size → i ≠ sym → t.lenAt i = 0

/-- BLDLEN's lengths have Kraft sum exactly 1 for two or more counted symbols, and 1/2 for one (R127). -/
def Obligations.BldlenLengthsHaveKraftSumOne : Prop :=
  ∀ s : State, s.size ≤ 256 →
    (2 ≤ s.countedSymbols.length →
      ∃ t, exec .bldlen s = .next t ∧ t.kraft 255 (List.range t.size) = 2 ^ 255) ∧
    (s.countedSymbols.length = 1 →
      ∃ t, exec .bldlen s = .next t ∧ t.kraft 255 (List.range t.size) = 2 ^ 254)

/-- BLDCAN on lengths of at most 32 with Kraft sum at most 1 completes: CODE below SIZE becomes the
canonical codes, where the code of a symbol, scaled to 32 bits, is the Kraft sum of the used symbols
before it in the order of length and symbol; CODES_VALID is set, TREE_VALID cleared, and nothing else
changes (R126). -/
def Obligations.BldcanAssignsCanonicalCodes : Prop :=
  ∀ s : State, s.size ≤ 256 → (∀ i, i < s.size → s.lenAt i ≤ 32) →
    s.kraft 32 (List.range s.size) ≤ 2 ^ 32 →
    ∃ t, exec .bldcan s = .next t ∧
      t = { s with code := t.code, codesValid := true, treeValid := false, pending := none } ∧
      (∀ i, s.size ≤ i → t.code.read i = s.code.read i) ∧
      (∀ i, i < s.size → s.lenAt i = 0 → t.code.read i = 0) ∧
      ∀ i, i < s.size → s.lenAt i ≠ 0 →
        (t.code.read i).toNat * 2 ^ (32 - s.lenAt i) = s.kraft 32 (s.codedBefore i)

/-- BLDCAN raises E_LEN_TOO_LONG when some length below SIZE exceeds 32, else E_OVERSUBSCRIBED when the
Kraft sum exceeds 1, and then changes nothing else (R126). -/
def Obligations.BldcanRefusesBadLengths : Prop :=
  ∀ s : State,
    ((∃ i, i < s.size ∧ 32 < s.lenAt i) → exec .bldcan s = .next (s.failed 0x08)) ∧
    ((∀ i, i < s.size → s.lenAt i ≤ 32) → 2 ^ 32 < s.kraft 32 (List.range s.size) →
      exec .bldcan s = .next (s.failed 0x09))

/-- On a LEN table BLDLEN wrote, BLDCAN completes exactly when no length exceeds 32, and otherwise
raises E_LEN_TOO_LONG: it never raises E_OVERSUBSCRIBED (R127). -/
def Obligations.BldcanAcceptsBldlenLengths : Prop :=
  ∀ s t : State, s.size ≤ 256 → s.countedSymbols ≠ [] → exec .bldlen s = .next t →
    ((∀ i, i < t.size → t.lenAt i ≤ 32) →
      ∃ u, exec .bldcan t = .next u ∧ u.codesValid = true ∧ u.err = t.err) ∧
    ((∃ i, i < t.size ∧ 32 < t.lenAt i) → exec .bldcan t = .next (t.failed 0x08))

/-- Whether BLDCAN completes, and the CODE entries it writes, depend only on SIZE and LEN below SIZE
(R127). -/
def Obligations.CanonicalCodesDependOnlyOnLengths : Prop :=
  ∀ s s' : State, s.size = s'.size → (∀ i, i < s.size → s.len.read i = s'.len.read i) →
    ∀ t, bldcan s = .done t →
      ∃ t', bldcan s' = .done t' ∧ ∀ i, i < s.size → i < 256 → t.code.read i = t'.code.read i

/-! ## The decode tree, encoding and decoding (42_huffman_tree.md) -/

/-- BLDTREE, DECSYM and ENCSYM of a symbol in range fail with E_NOT_READY and change nothing else while
their valid bit is 0 (R140, R142, R143). -/
def Obligations.NotReadyFailures : Prop :=
  ∀ s : State,
    (s.codesValid = false → exec .bldtree s = .next (s.failed 0x0A)) ∧
    (s.codesValid = false → ∀ sym, sym < s.size → exec (.encsym sym) s = .next (s.failed 0x0A)) ∧
    (s.treeValid = false → exec .decsym s = .next (s.failed 0x0A))

/-- BLDTREE with valid codes writes TREE, sets TREE_VALID and changes nothing else (R140); the finished
tree has a leaf of symbol `sym` at a path exactly when the path is the code of `sym` (R141). -/
def Obligations.BldtreeBuildsExactlyTheCodes : Prop :=
  ∀ s : State, Inv s → s.codesValid = true →
    ∃ t, exec .bldtree s = .next t ∧
      t = { s with tree := t.tree, treeValid := true, pending := none } ∧
      ∀ (path : List Bool) (sym : Fin 256),
        leafAt t.tree path = some sym ↔ s.coded sym.val ∧ path = s.codeBits sym.val

/-- The codes of two different used symbols: neither is a beginning of the other (R141). -/
def Obligations.CodesArePrefixFree : Prop :=
  ∀ (s : State) (a b : Nat), Inv s → s.codesValid = true → s.coded a → s.coded b → a ≠ b →
    ¬ s.codeBits a <+: s.codeBits b

/-- ENCSYM: its word, its three errors in their order, its completion, which appends the symbol's code to the
bit stream and changes only the writer and OUTQ, and its hold (R142). -/
def Obligations.EncsymRule : Prop :=
  (∀ sym, sym < 256 → decode (0x00000022 ||| BitVec.ofNat 32 sym <<< 8) = .ok (.encsym sym)) ∧
  ∀ (s : State) (sym : Nat), Inv s →
    (s.size ≤ sym → exec (.encsym sym) s = .next (s.failed 0x04)) ∧
    (sym < s.size → s.codesValid = false → exec (.encsym sym) s = .next (s.failed 0x0A)) ∧
    (sym < s.size → s.codesValid = true → s.lenAt sym = 0 →
      exec (.encsym sym) s = .next (s.failed 0x0B)) ∧
    (s.codesValid = true → s.coded sym → s.roomFor (s.lenAt sym) →
      ∃ t, exec (.encsym sym) s = .next t ∧
        t.writtenBits = s.writtenBits ++ s.codeBits sym ∧ s.outq <+: t.outq ∧
        t.wn = (s.wn + s.lenAt sym) % 8 ∧
        t = { s with wacc := t.wacc, wn := t.wn, outq := t.outq, pending := none }) ∧
    (s.codesValid = true → s.coded sym → ¬ s.roomFor (s.lenAt sym) →
      exec (.encsym sym) s = .next s)

/-- When the unread bits begin with the code of a symbol, DECSYM returns that symbol, consumes exactly
its code, and changes only RESULT and the reader (R143). -/
def Obligations.DecsymReturnsTheSymbol : Prop :=
  ∀ (s : State) (sym : Nat) (rest : List Bool), Inv s → s.treeValid = true → s.coded sym →
    s.unreadBits = s.codeBits sym ++ rest →
    ∃ t, exec .decsym s = .next t ∧ t.result = BitVec.ofNat 32 sym ∧ t.unreadBits = rest ∧
      t = { s with result := t.result, rbyte := t.rbyte, rn := t.rn, inq := t.inq, pending := none }

/-- When the unread bits end inside a code, DECSYM fails with E_EOS, the bits consumed and RESULT
unchanged, if the input is closed, and holds if it is open (R143, 60_exceptions.md R185). -/
def Obligations.DecsymAtTheEndOfInput : Prop :=
  ∀ s : State, Inv s → s.treeValid = true → s.insideCode s.unreadBits →
    (s.inClosed = true → ∃ t, exec .decsym s = .next t ∧ t.inq = [] ∧ t.rn = 0 ∧
      t = { s.failed 0x0D with rbyte := t.rbyte, rn := t.rn, inq := t.inq }) ∧
    (s.inClosed = false → exec .decsym s = .next s)

/-- When the unread bits leave every code, DECSYM fails with E_INVALID_CODE, with exactly the bits up
to the one that selected the missing child consumed and RESULT unchanged (R143, 60_exceptions.md
R185). -/
def Obligations.DecsymOnAnInvalidCode : Prop :=
  ∀ (s : State) (path rest : List Bool) (b : Bool), Inv s → s.treeValid = true →
    s.unreadBits = path ++ b :: rest → s.insideCode path →
    (∀ sym, s.coded sym → ¬ path ++ [b] <+: s.codeBits sym) →
    ∃ t, exec .decsym s = .next t ∧ t.unreadBits = rest ∧
      t = { s.failed 0x0E with rbyte := t.rbyte, rn := t.rn, inq := t.inq }

/-- Symbols encoded into an empty writer and closed are decoded back, in order, by an engine with the
same SIZE and lengths that is given the bytes (R144). The first clause is for a stream that fits the
FIFOs. The second is for a stream of any length, with host reads of OUT_DATA between the ENCSYMs and host
writes of IN_DATA between the DECSYMs: the values decoded so far are the symbols encoded, in order; while
symbols are left and the input is open the next DECSYM does not fail; and once all bytes have been pushed
it returns the next symbol. -/
def Obligations.HuffmanRoundTrip : Prop :=
  (∀ (syms : List Nat) (e e' c d : State), Inv e → Inv d → e.codesValid = true →
    d.treeValid = true → e.size = d.size → (∀ i, i < e.size → e.len.read i = d.len.read i) →
    (∀ sym, sym ∈ syms → e.coded sym) → e.wn = 0 → e.outq = [] →
    encodeAll syms e = some e' → closeWriter e' = some c → d.rn = 0 → d.inq = c.outq →
    ∃ d', decodeAll syms.length d = some (syms.map (BitVec.ofNat 32), d')) ∧
  ∀ (atEncoder : List EncodeTurn) (atDecoder : List DecodeTurn) (e e' c d d' : State)
    (syms : List Nat) (popped : List Byte) (values : List Word), Inv e → Inv d →
    e.codesValid = true → d.treeValid = true → e.size = d.size →
    (∀ i, i < e.size → e.len.read i = d.len.read i) → e.wn = 0 → e.outq = [] →
    encodeRun atEncoder e = some (syms, popped, e') → closeWriter e' = some c → d.rn = 0 →
    decodeRun atDecoder d = some (values, d') →
    d.inq ++ pushedBytes atDecoder <+: popped ++ c.outq → values.length ≤ syms.length →
    values = (syms.take values.length).map (BitVec.ofNat 32) ∧
    ∀ sym, syms[values.length]? = some sym →
      (d'.inClosed = false → ∀ err t, decsym d' ≠ .error err t) ∧
      (d.inq ++ pushedBytes atDecoder = popped ++ c.outq →
        ∃ t, decsym d' = .done t ∧ t.result = BitVec.ofNat 32 sym)

/-! ## The raw bit stream (43_bitstream.md) -/

/-- WRBITS: its word, its error, its completion, which appends the N low bits of DATA to the bit stream, most
significant first, and changes only the writer and OUTQ, and its hold (R164). -/
def Obligations.WrbitsRule : Prop :=
  (∀ n, n < 64 → decode (0x00000020 ||| BitVec.ofNat 32 n <<< 8) = .ok (.wrbits n)) ∧
  ∀ (s : State) (n : Nat), Inv s →
    (32 < n → exec (.wrbits n) s = .next (s.failed 0x0C)) ∧
    (n ≤ 32 → s.roomFor n →
      ∃ t, exec (.wrbits n) s = .next t ∧
        t.writtenBits = s.writtenBits ++ lowBits s.data n ∧ s.outq <+: t.outq ∧
        t.wn = (s.wn + n) % 8 ∧
        t = { s with wacc := t.wacc, wn := t.wn, outq := t.outq, pending := none }) ∧
    (n ≤ 32 → ¬ s.roomFor n → exec (.wrbits n) s = .next s)

/-- WRCLOSE: its word 0x00000021; nothing with no partial byte; a hold when OUTQ is full; else one byte, the partial bits
followed by zero bits (R165). -/
def Obligations.WrcloseRule : Prop :=
  decode 0x00000021 = .ok .wrclose ∧
  ∀ s : State, Inv s →
    (s.wn = 0 → exec .wrclose s = .next { s with pending := none }) ∧
    (0 < s.wn → s.outq.length = Config.outDepth → exec .wrclose s = .next s) ∧
    (0 < s.wn → s.outq.length ≠ Config.outDepth →
      ∃ b, exec .wrclose s = .next
          { s with wacc := 0, wn := 0, outq := s.outq ++ [b], pending := none } ∧
        lowBits b 8 = lowBits s.wacc s.wn ++ List.replicate (8 - s.wn) false)

/-- RDBIT: its word 0x00000030; the next bit into RESULT, EOS cleared and that bit consumed; at the end of a closed input
0xFFFF_FFFF and EOS set; a hold at the end of an open one (R166). -/
def Obligations.RdbitRule : Prop :=
  decode 0x00000030 = .ok .rdbit ∧
  ∀ s : State,
    (∀ b rest, s.unreadBits = b :: rest →
      ∃ t, exec .rdbit s = .next t ∧ t.unreadBits = rest ∧
        t = { s with result := BitVec.ofNat 32 b.toNat, eos := false, rbyte := t.rbyte,
                     rn := t.rn, inq := t.inq, pending := none }) ∧
    (s.unreadBits = [] → s.inClosed = true →
      exec .rdbit s = .next { s with result := 0xFFFFFFFF, eos := true, pending := none }) ∧
    (s.unreadBits = [] → s.inClosed = false → exec .rdbit s = .next s)

/-- The word 0x00000032 is RDRESET. RDRESET empties and reopens the reader and changes nothing else
(R167). -/
def Obligations.RdresetRule : Prop :=
  decode 0x00000032 = .ok .rdreset ∧
  ∀ s : State, exec .rdreset s = .next
    { s with inq := [], rbyte := 0, rn := 0, inClosed := false, eos := false, pending := none }

/-- No writing command touches the reader, and no reading command touches the writer (R163). -/
def Obligations.WriterAndReaderAreIndependent : Prop :=
  (∀ (i : Instr) (s t : State), ((∃ n, i = .wrbits n) ∨ (∃ sym, i = .encsym sym) ∨ i = .wrclose) →
    exec i s = .next t →
    t.rbyte = s.rbyte ∧ t.rn = s.rn ∧ t.inq = s.inq ∧ t.inClosed = s.inClosed ∧ t.eos = s.eos) ∧
  ∀ (i : Instr) (s t : State), (i = .rdbit ∨ i = .decsym ∨ i = .rdreset) → exec i s = .next t →
    t.wacc = s.wacc ∧ t.wn = s.wn ∧ t.outq = s.outq

/-- Every hold can be lifted: with OUTQ empty no writing command holds, and with four bytes in INQ, or
the input closed, no reading command holds; and the host can bring these about: after it has read OUT_DATA
as often as OUTQ holds bytes a pending writing command completes, and after it has closed the input, or
pushed INQ up to four bytes, a pending reading command does (70_reset_and_hazards.md R213, R216). -/
def Obligations.HoldsCanBeLifted : Prop :=
  ∀ s : State, Inv s →
    (s.outq = [] → ∀ i : Instr, ((∃ n, i = .wrbits n) ∨ (∃ sym, i = .encsym sym) ∨ i = .wrclose) →
      ∃ t, exec i s = .next t ∧ t.pending = none) ∧
    ((4 ≤ s.inq.length ∨ s.inClosed = true) → ∀ i : Instr, (i = .rdbit ∨ i = .decsym) →
      ∃ t, exec i s = .next t ∧ t.pending = none) ∧
    ∀ (w : Word) (i : Instr), s.pending = some w → decode w = .ok i →
      (((∃ n, i = .wrbits n) ∨ (∃ sym, i = .encsym sym) ∨ i = .wrclose) →
        ∃ t, s.runTurns (List.replicate s.outq.length (.host (.read .w32 (.offset 0x024)))
          ++ [.engine]) = .next t ∧ t.pending = none) ∧
      ((i = .rdbit ∨ i = .decsym) →
        (∃ t, s.runTurns [.host (.write .w32 (.offset 0x020) 1), .engine] = .next t ∧
          t.pending = none) ∧
        ∀ bytes : List Word, s.inClosed = false → s.inq.length + bytes.length = 4 →
          ∃ t, s.runTurns (bytes.map (fun v => Turn.host (.write .w32 (.offset 0x01C) v))
            ++ [.engine]) = .next t ∧ t.pending = none)

/-! ## The register window (20_memory.md) -/

/-- The offsets of R62, and that an access at one reaches that register and no other. -/
def Obligations.RegisterMapRoundTrip : Prop :=
  Reg.id.offset = 0x000 ∧ Reg.version.offset = 0x004 ∧ Reg.ctrl.offset = 0x008 ∧
  Reg.status.offset = 0x00C ∧ Reg.cmd.offset = 0x010 ∧ Reg.data.offset = 0x014 ∧
  Reg.result.offset = 0x018 ∧ Reg.inData.offset = 0x01C ∧ Reg.inCtrl.offset = 0x020 ∧
  Reg.outData.offset = 0x024 ∧ Reg.fifoStat.offset = 0x028 ∧
  (∀ i : Fin 256, (Reg.freq i).offset.toNat = 0x400 + 4 * i.val ∧
    (Reg.len i).offset.toNat = 0x800 + 4 * i.val ∧
    (Reg.code i).offset.toNat = 0xC00 + 4 * i.val) ∧
  (∀ r : Reg, regAt r.offset = .ok r) ∧ ∀ (off : BitVec 12) (r : Reg), regAt off = .ok r → r.offset = off

/-- A host access of a window offset ends in busFault exactly when it is not 32 bits wide, its offset
is no multiple of 4, or the offset is 0x02C to 0x3FF; otherwise it gives a next state (R61). -/
def Obligations.BusFaultsExactlyWhereListed : Prop :=
  ∀ (w : Width) (off : BitVec 12) (v : Word) (s : State),
    ((w ≠ .w32 ∨ off.toNat % 4 ≠ 0 ∨ 0x02C ≤ off.toNat ∧ off.toNat ≤ 0x3FF) →
      (∃ why, hostAccess (.read w (.offset off)) s = .fault (.busFault why)) ∧
      ∃ why, hostAccess (.write w (.offset off) v) s = .fault (.busFault why)) ∧
    (w = .w32 → off.toNat % 4 = 0 → ¬ (0x02C ≤ off.toNat ∧ off.toNat ≤ 0x3FF) →
      (∃ t, hostAccess (.read w (.offset off)) s = .next t) ∧
      ∃ t, hostAccess (.write w (.offset off) v) s = .next t)

/-- A bus address inside BASE to BASE + 0xFFF reaches the offset `address - BASE` (R60), and any other
address faults (the model's choice, log entry 4). -/
def Obligations.BusAddressesAreBasePlusOffset : Prop :=
  ∀ (w : Width) (v : Word) (s : State),
    (∀ off : BitVec 12,
      hostAccess (.read w (.bus (Config.base + off.toNat))) s = hostAccess (.read w (.offset off)) s ∧
      hostAccess (.write w (.bus (Config.base + off.toNat)) v) s
        = hostAccess (.write w (.offset off) v) s) ∧
    ∀ addr, (addr < Config.base ∨ Config.base + 0xFFF < addr) →
      hostAccess (.read w (.bus addr)) s = .fault .outsideWindow ∧
      hostAccess (.write w (.bus addr) v) s = .fault .outsideWindow

/-- STATUS is at offset 0x00C, ignores host writes and reads back unchanged by the read; it holds the flags and counts at the bits R26
lists, and 0 in its reserved bits. -/
def Obligations.StatusLayout : Prop :=
  regAt 0x00C = .ok .status ∧
  (∀ (s : State) (v : Word), s.hostWrites .status v →
    step s = .next { s with agenda := s.agenda.tail }) ∧
  (∀ (s t : State) (p : Place) (rest : List Turn), s.agenda = .host (.read .w32 p) :: rest →
    checkAccess .w32 p = .ok .status → step s = .next t →
    t = { s with agenda := rest, readLog := s.readLog ++ [s.status] }) ∧
  ∀ s : State,
    s.status.getLsbD 0 = s.pending.isSome ∧ s.status.getLsbD 1 = s.err ∧
    s.status.getLsbD 2 = s.eos ∧ s.status.getLsbD 3 = s.inClosed ∧
    s.status.getLsbD 4 = s.inDrop ∧ s.status.getLsbD 5 = s.codesValid ∧
    s.status.getLsbD 6 = s.treeValid ∧ s.status.getLsbD 7 = false ∧
    s.status.extractLsb' 8 8 = s.errcode ∧
    (s.wn ≤ 7 → (s.status.extractLsb' 16 4).toNat = s.wn) ∧
    (s.rn ≤ 8 → (s.status.extractLsb' 20 4).toNat = s.rn) ∧
    s.status.extractLsb' 24 8 = 0

/-- FIFO_STAT is at offset 0x028. It counts INQ in bits 15:0 and OUTQ in bits 31:16, each wherever 16 bits
can show the count (10_state.md R36). A host read of it is the number `(length(OUTQ) << 16) | length(INQ)`
wherever this fits 32 bits (20_memory.md R63), and it is the register while each FIFO holds fewer than
65536 bytes. With longer FIFOs R36 and R63 differ: that the register is R36's and the value read R63's, and
that the read is the register where R63's number does not fit, is the model's choice (log entry 15). CTRL
is at offset 0x008 and holds SIZE in bits 8:0 and 0 elsewhere (10_state.md R24). -/
def Obligations.FifoStatAndCtrlLayout : Prop :=
  regAt 0x028 = .ok .fifoStat ∧ regAt 0x008 = .ok .ctrl ∧
  (∀ s : State, s.inq.length < 65536 → (s.fifoStat.extractLsb' 0 16).toNat = s.inq.length) ∧
  (∀ s : State, s.outq.length < 65536 → (s.fifoStat.extractLsb' 16 16).toNat = s.outq.length) ∧
  (∀ s : State, (s.outq.length <<< 16) ||| s.inq.length < 2 ^ 32 →
    (readValue .fifoStat s).toNat = (s.outq.length <<< 16) ||| s.inq.length) ∧
  (∀ s : State, (s.outq.length < 65536 ∧ s.inq.length < 65536 ∨
      2 ^ 32 ≤ (s.outq.length <<< 16) ||| s.inq.length) →
    readValue .fifoStat s = s.fifoStat) ∧
  ∀ s : State, s.size ≤ 256 →
    (s.ctrl.extractLsb' 0 9).toNat = s.size ∧ s.ctrl.extractLsb' 9 23 = 0

/-- A host read of any register but OUT_DATA returns the value R63 lists and changes nothing; the
value joins the read log. Where R63's number for FIFO_STAT does not fit 32 bits, the value is the register's
(the model's choice, log entry 15). -/
def Obligations.ReadsReturnTheRegister : Prop :=
  ∀ (s : State) (rest : List Turn),
    (∀ (r : Reg) (v : Word),
      ((r = .id ∧ v = 0x504B4343) ∨ (r = .version ∧ v = 0x00000001) ∨ (r = .ctrl ∧ v = s.ctrl) ∨
        (r = .status ∧ v = s.status) ∨ ((r = .cmd ∨ r = .inData ∨ r = .inCtrl) ∧ v = 0) ∨
        (r = .data ∧ v = s.data) ∨ (r = .result ∧ v = s.result) ∨
        (r = .fifoStat ∧ (s.outq.length <<< 16) ||| s.inq.length < 2 ^ 32 ∧
          v.toNat = (s.outq.length <<< 16) ||| s.inq.length) ∨
        (r = .fifoStat ∧ 2 ^ 32 ≤ (s.outq.length <<< 16) ||| s.inq.length ∧ v = s.fifoStat) ∨
        (∃ i, r = .freq i ∧ v = s.freq.read i.val) ∨
        (∃ i, r = .len i ∧ v.toNat = s.lenAt i.val) ∨ (∃ i, r = .code i ∧ v = s.code.read i.val)) →
      s.agenda = .host (.read .w32 (.offset r.offset)) :: rest →
      step s = .next { s with agenda := rest, readLog := s.readLog ++ [v] })

/-- A host read of OUT_DATA pops the oldest output byte and returns it with bit 8 set; with OUTQ empty
it returns 0 and pops nothing; and no other host read changes anything but the read log (R68). -/
def Obligations.OutDataPops : Prop :=
  (∀ (s : State) (rest : List Turn), s.agenda = .host (.read .w32 (.offset 0x024)) :: rest →
    (s.outq = [] → step s = .next { s with agenda := rest, readLog := s.readLog ++ [0] }) ∧
    ∀ (b : Byte) (bs : List Byte), s.outq = b :: bs →
      step s = .next { s with agenda := rest, outq := bs
                              readLog := s.readLog ++ [BitVec.ofNat 32 (256 + b.toNat)] }) ∧
  ∀ (s t : State) (r : Reg), s.hostReads r → r ≠ .outData → step s = .next t →
    t = { s with agenda := t.agenda, readLog := t.readLog }

/-- A CMD write: refused with E_CMD_BUSY while a command is pending, dropped without record while ERR = 1
for every word but SRST's and CLRERR's, else accepted undecoded; an accepted word that is no command
fails with E_ILLEGAL when it executes (R65). The agenda is how the model writes the order of turns (log
entry 6). -/
def Obligations.CmdWriteRule : Prop :=
  decode 0x00000001 = .ok .srst ∧ decode 0x00000002 = .ok .clrerr ∧
  (∀ (s : State) (v : Word) (e : Illegal), decode v = .error e → s.pending = some v →
    s.engineHasTurn → step s = .next ({ s with agenda := s.agenda.tail }.failed 0x01)) ∧
  ∀ (s : State) (v : Word), s.hostWrites .cmd v →
    (s.busy = true → step s = .next
      { s with agenda := s.agenda.tail, err := true, errcode := if s.err then s.errcode else 0x02 }) ∧
    (s.busy = false → s.err = true → v ≠ 0x00000001 → v ≠ 0x00000002 →
      step s = .next { s with agenda := s.agenda.tail }) ∧
    (s.busy = false → (s.err = false ∨ v = 0x00000001 ∨ v = 0x00000002) →
      step s = .next { s with agenda := s.agenda.tail, pending := some v })

/-- A write to CTRL, DATA, FREQ or LEN while a command is pending is dropped and records E_WRITE_BUSY;
the pending command stays (R64). -/
def Obligations.BusyWritesAreDropped : Prop :=
  ∀ (s : State) (r : Reg) (v : Word), s.hostWrites r v → s.busy = true →
    (r = .ctrl ∨ r = .data ∨ (∃ i, r = .freq i) ∨ ∃ i, r = .len i) →
    step s = .next
      { s with agenda := s.agenda.tail, err := true, errcode := if s.err then s.errcode else 0x03 }

/-- An idle engine takes the writes of DATA, FREQ, LEN and CTRL: a LEN write keeps bits 7:0 and clears
both valid bits, a legal SIZE is stored and clears them, an illegal one is ignored (R64, R69,
10_state.md R24). -/
def Obligations.IdleWritesTakeEffect : Prop :=
  ∀ (s : State) (v : Word), s.busy = false →
    (s.hostWrites .data v → step s = .next { s with agenda := s.agenda.tail, data := v }) ∧
    (∀ i, s.hostWrites (.freq i) v →
      ∃ t, step s = .next t ∧ t.freq.read i.val = v ∧
        (∀ j, j ≠ i.val → t.freq.read j = s.freq.read j) ∧
        t = { s with agenda := s.agenda.tail, freq := t.freq }) ∧
    (∀ i, s.hostWrites (.len i) v →
      ∃ t, step s = .next t ∧ t.len.read i.val = v.extractLsb' 0 8 ∧
        (∀ j, j ≠ i.val → t.len.read j = s.len.read j) ∧
        t = { s with agenda := s.agenda.tail, len := t.len, codesValid := false, treeValid := false }) ∧
    (s.hostWrites .ctrl v → 1 ≤ (v.extractLsb' 0 9).toNat → (v.extractLsb' 0 9).toNat ≤ 256 →
      step s = .next { s with agenda := s.agenda.tail, size := (v.extractLsb' 0 9).toNat
                              codesValid := false, treeValid := false }) ∧
    (s.hostWrites .ctrl v → ((v.extractLsb' 0 9).toNat = 0 ∨ 256 < (v.extractLsb' 0 9).toNat) →
      step s = .next { s with agenda := s.agenda.tail })

/-- Writes to the read-only registers, CODE among them, are ignored (R64, R69). -/
def Obligations.ReadOnlyWritesAreIgnored : Prop :=
  ∀ (s : State) (r : Reg) (v : Word), s.hostWrites r v →
    (r = .id ∨ r = .version ∨ r = .status ∨ r = .result ∨ r = .outData ∨ r = .fifoStat ∨
      ∃ i, r = .code i) →
    step s = .next { s with agenda := s.agenda.tail }

/-- A write of IN_DATA, busy or not, appends bits 7:0 to INQ, or only sets IN_DROP when the input is
closed or INQ is full (R66). -/
def Obligations.InDataWriteRule : Prop :=
  ∀ (s : State) (v : Word), s.hostWrites .inData v →
    ((s.inClosed = true ∨ s.inq.length = Config.inDepth) →
      step s = .next { s with agenda := s.agenda.tail, inDrop := true }) ∧
    (s.inClosed = false → s.inq.length ≠ Config.inDepth →
      step s = .next { s with agenda := s.agenda.tail, inq := s.inq ++ [v.extractLsb' 0 8] })

/-- A write of IN_CTRL, busy or not, closes the input when bit 0 is 1 and does nothing otherwise; only
RDRESET and SRST reopen the input (R67). -/
def Obligations.InCtrlWriteRule : Prop :=
  (∀ (s : State) (v : Word), s.hostWrites .inCtrl v →
    (v.getLsbD 0 = true → step s = .next { s with agenda := s.agenda.tail, inClosed := true }) ∧
    (v.getLsbD 0 = false → step s = .next { s with agenda := s.agenda.tail })) ∧
  ∀ s t : State, step s = .next t → s.inClosed = true → t.inClosed = false →
    s.executes .rdreset ∨ s.executes .srst

/-! ## Who may change what -/

/-- CODES_VALID rises only by BLDCAN, TREE_VALID only by BLDTREE; CODES_VALID falls only by a legal CTRL
write or a LEN write to an idle engine, BLDLEN or SRST, and TREE_VALID by these or by BLDCAN
(10_state.md R32, R33). -/
def Obligations.ValidBitsChangeOnlyBy : Prop :=
  ∀ s t : State, step s = .next t →
    (s.codesValid = false → t.codesValid = true → s.executes .bldcan) ∧
    (s.treeValid = false → t.treeValid = true → s.executes .bldtree ∧ s.codesValid = true) ∧
    (s.codesValid = true → t.codesValid = false →
      (s.busy = false ∧ ∃ v, s.hostWrites .ctrl v ∧ 1 ≤ v.toNat % 512 ∧ v.toNat % 512 ≤ 256) ∨
      (s.busy = false ∧ ∃ i v, s.hostWrites (.len i) v) ∨ s.executes .bldlen ∨ s.executes .srst) ∧
    (s.treeValid = true → t.treeValid = false →
      (s.busy = false ∧ ∃ v, s.hostWrites .ctrl v ∧ 1 ≤ v.toNat % 512 ∧ v.toNat % 512 ≤ 256) ∨
      (s.busy = false ∧ ∃ i v, s.hostWrites (.len i) v) ∨
      s.executes .bldlen ∨ s.executes .bldcan ∨ s.executes .srst)

/-- FREQ, LEN, CODE and TREE change only by the commands and the writes that own them; BLDLEN and BLDCAN
leave the entries from SIZE on as they are (10_state.md R37 to R39, R41). -/
def Obligations.TablesChangeOnlyBy : Prop :=
  ∀ s t : State, step s = .next t →
    (t.freq ≠ s.freq → s.executes .frqclr ∨ (∃ sym, s.executes (.frqinc sym)) ∨
      (s.busy = false ∧ ∃ i v, s.hostWrites (.freq i) v)) ∧
    (t.len ≠ s.len →
      (s.executes .bldlen ∧ ∀ i, s.size ≤ i → t.len.read i = s.len.read i) ∨
      (s.busy = false ∧ ∃ i v, s.hostWrites (.len i) v)) ∧
    (t.code ≠ s.code → s.executes .bldcan ∧ ∀ i, s.size ≤ i → t.code.read i = s.code.read i) ∧
    (t.tree ≠ s.tree → s.executes .bldtree)

/-- PENDING is filled only by an accepted CMD write and emptied only by the engine; DATA, SIZE and RESULT
change only by their own writes, RDBIT and DECSYM, and SRST (10_state.md R22 to R25). -/
def Obligations.RegistersChangeOnlyBy : Prop :=
  ∀ s t : State, step s = .next t →
    (t.pending ≠ s.pending →
      (∃ v, s.hostWrites .cmd v ∧ s.pending = none ∧ t.pending = some v) ∨
      (s.engineHasTurn ∧ t.pending = none)) ∧
    (t.data ≠ s.data → (s.busy = false ∧ ∃ v, s.hostWrites .data v) ∨ s.executes .srst) ∧
    (t.size ≠ s.size → (s.busy = false ∧ ∃ v, s.hostWrites .ctrl v) ∨ s.executes .srst) ∧
    (t.result ≠ s.result → s.executes .rdbit ∨ s.executes .decsym ∨ s.executes .srst)

/-- While ERR = 1, both ERR and ERRCODE keep their values through every step but a CLRERR or an SRST
(60_exceptions.md R183, R190). -/
def Obligations.ErrorRecordIsSticky : Prop :=
  ∀ s t : State, step s = .next t → s.err = true →
    (t.err = true ∧ t.errcode = s.errcode) ∨ s.executes .clrerr ∨ s.executes .srst

/-- EOS changes only by RDBIT, RDRESET and SRST; IN_DROP rises only by a write of IN_DATA and falls only
by CLRERR and SRST; IN_CLOSED rises only by a write of IN_CTRL (10_state.md R29 to R31). -/
def Obligations.StreamFlagsChangeOnlyBy : Prop :=
  ∀ s t : State, step s = .next t →
    (t.eos ≠ s.eos → s.executes .rdbit ∨ s.executes .rdreset ∨ s.executes .srst) ∧
    (s.inDrop = false → t.inDrop = true → ∃ v, s.hostWrites .inData v) ∧
    (s.inDrop = true → t.inDrop = false → s.executes .clrerr ∨ s.executes .srst) ∧
    (s.inClosed = false → t.inClosed = true → ∃ v, s.hostWrites .inCtrl v)

/-! ## Host programs (30_encoding.md R98, R99) -/

/-- A `W` or `R` of a host program is exactly its register access, a write of its value or a read whose
value goes to its name, and the program goes on at the next operation (00_scope.md R6, R98). Any other
operation takes a turn that leaves the machine alone, and so does a turn after the program's end or after
a CHECK stopped it: both are the model's choice (log entry 13). -/
def Obligations.HostProgramTurnIsOneAccess : Prop :=
  ∀ h : HostRun,
    (∀ r v, h.failed = false → h.program[h.here]? = some (.write r v) →
      ∃ s, hostAccess (.write .w32 (.offset r.offset) (h.valueOf v)) h.machine = .next s ∧
        h.hostTurn = .next { h with machine := s, here := h.here + 1 }) ∧
    (∀ r name, h.failed = false → h.program[h.here]? = some (.read r name) →
      ∃ s v, hostAccess (.read .w32 (.offset r.offset)) h.machine = .next s ∧
        s.readLog = h.machine.readLog ++ [v] ∧
        h.hostTurn = .next { h with
          machine := s
          here := h.here + 1
          names := name.toList.map (fun n => (n, v)) ++ h.names }) ∧
    ((h.failed = true ∨ (∀ r v, h.program[h.here]? ≠ some (.write r v)) ∧
        ∀ r name, h.program[h.here]? ≠ some (.read r name)) →
      ∃ h', h.hostTurn = .next h' ∧ h'.machine = h.machine)

/-- One round of WAIT's expansion, wherever it stands in a program: the STATUS read, then the branch, which
goes on exactly when BUSY was 0 (R99). That the branch takes a turn of its own is the model's choice (log
entry 13). -/
def Obligations.WaitGoesOnWhenIdle : Prop :=
  ∀ (h : HostRun) (pre rest : List HostOp), h.failed = false → h.here = pre.length →
    h.program = pre ++ waitOps ++ rest →
    ∃ h₁ h₂, h.hostTurn = .next h₁ ∧ h₁.hostTurn = .next h₂ ∧
      h₂.machine = { h.machine with readLog := h.machine.readLog ++ [h.machine.status] } ∧
      h₂.here = (if h.machine.busy then pre.length else pre.length + 2) ∧ h₂.program = h.program ∧
      h₂.failed = false
end

