-- ==== Sys2Proof/Laws/Decode.lean ====
section
/-! SUPPORT. The fields of an assembled command word. -/

namespace Sys2Proof

theorem commandWord_toNat {op a : Nat} (ho : op < 256) (ha : a < 256) :
    (commandWord op a).toNat = op + 256 * a := by
  simp [commandWord]
  omega

theorem opField_commandWord {op a : Nat} (ho : op < 256) (ha : a < 256) :
    opField (commandWord op a) = op := by
  rw [opField, commandWord_toNat ho ha]
  omega

theorem aField_commandWord {op a : Nat} (ho : op < 256) (ha : a < 256) :
    aField (commandWord op a) = a := by
  rw [aField, commandWord_toNat ho ha]
  omega

theorem zField_commandWord {op a : Nat} (ho : op < 256) (ha : a < 256) :
    zField (commandWord op a) = 0 := by
  rw [zField, commandWord_toNat ho ha]
  omega

/-- The three fields make up the word (30_encoding.md R90). -/
theorem word_eq_fields (w : Word) :
    w.toNat = opField w + 256 * aField w + 65536 * zField w := by
  simp only [opField, aField, zField]
  omega

theorem opField_lt (w : Word) : opField w < 256 := Nat.mod_lt _ (by decide)

theorem aField_lt (w : Word) : aField w < 256 := Nat.mod_lt _ (by decide)

@[simp] theorem decodeF0_eq_ok {a : Nat} {i j : Instr} :
    decodeF0 a i = .ok j ↔ a = 0 ∧ i = j := by
  unfold decodeF0
  split <;> simp_all

@[simp] theorem decodeFN_eq_ok {a : Nat} {f : Nat → Instr} {j : Instr} :
    decodeFN a f = .ok j ↔ a < 64 ∧ f a = j := by
  unfold decodeFN
  split <;> simp_all

end Sys2Proof
end

