-- ==== Sys2Proof/Laws/State.lean ====
section
/-! SUPPORT. One lemma per field of State and per named update, true by rfl, so that no later proof
unfolds a record update. -/

namespace Sys2Proof.Machine

@[simp] theorem invalidate_pending (s : State) : s.invalidate.pending = s.pending := rfl
@[simp] theorem invalidate_data (s : State) : s.invalidate.data = s.data := rfl
@[simp] theorem invalidate_size (s : State) : s.invalidate.size = s.size := rfl
@[simp] theorem invalidate_result (s : State) : s.invalidate.result = s.result := rfl
@[simp] theorem invalidate_err (s : State) : s.invalidate.err = s.err := rfl
@[simp] theorem invalidate_errcode (s : State) : s.invalidate.errcode = s.errcode := rfl
@[simp] theorem invalidate_eos (s : State) : s.invalidate.eos = s.eos := rfl
@[simp] theorem invalidate_inClosed (s : State) : s.invalidate.inClosed = s.inClosed := rfl
@[simp] theorem invalidate_inDrop (s : State) : s.invalidate.inDrop = s.inDrop := rfl
@[simp] theorem invalidate_codesValid (s : State) : s.invalidate.codesValid = false := rfl
@[simp] theorem invalidate_treeValid (s : State) : s.invalidate.treeValid = false := rfl
@[simp] theorem invalidate_freq (s : State) : s.invalidate.freq = s.freq := rfl
@[simp] theorem invalidate_len (s : State) : s.invalidate.len = s.len := rfl
@[simp] theorem invalidate_code (s : State) : s.invalidate.code = s.code := rfl
@[simp] theorem invalidate_wacc (s : State) : s.invalidate.wacc = s.wacc := rfl
@[simp] theorem invalidate_wn (s : State) : s.invalidate.wn = s.wn := rfl
@[simp] theorem invalidate_tree (s : State) : s.invalidate.tree = s.tree := rfl
@[simp] theorem invalidate_rbyte (s : State) : s.invalidate.rbyte = s.rbyte := rfl
@[simp] theorem invalidate_rn (s : State) : s.invalidate.rn = s.rn := rfl
@[simp] theorem invalidate_inq (s : State) : s.invalidate.inq = s.inq := rfl
@[simp] theorem invalidate_outq (s : State) : s.invalidate.outq = s.outq := rfl
@[simp] theorem invalidate_agenda (s : State) : s.invalidate.agenda = s.agenda := rfl
@[simp] theorem invalidate_readLog (s : State) : s.invalidate.readLog = s.readLog := rfl

@[simp] theorem codesBuilt_pending (s : State) : s.codesBuilt.pending = s.pending := rfl
@[simp] theorem codesBuilt_data (s : State) : s.codesBuilt.data = s.data := rfl
@[simp] theorem codesBuilt_size (s : State) : s.codesBuilt.size = s.size := rfl
@[simp] theorem codesBuilt_result (s : State) : s.codesBuilt.result = s.result := rfl
@[simp] theorem codesBuilt_err (s : State) : s.codesBuilt.err = s.err := rfl
@[simp] theorem codesBuilt_errcode (s : State) : s.codesBuilt.errcode = s.errcode := rfl
@[simp] theorem codesBuilt_eos (s : State) : s.codesBuilt.eos = s.eos := rfl
@[simp] theorem codesBuilt_inClosed (s : State) : s.codesBuilt.inClosed = s.inClosed := rfl
@[simp] theorem codesBuilt_inDrop (s : State) : s.codesBuilt.inDrop = s.inDrop := rfl
@[simp] theorem codesBuilt_codesValid (s : State) : s.codesBuilt.codesValid = true := rfl
@[simp] theorem codesBuilt_treeValid (s : State) : s.codesBuilt.treeValid = false := rfl
@[simp] theorem codesBuilt_freq (s : State) : s.codesBuilt.freq = s.freq := rfl
@[simp] theorem codesBuilt_len (s : State) : s.codesBuilt.len = s.len := rfl
@[simp] theorem codesBuilt_code (s : State) : s.codesBuilt.code = s.code := rfl
@[simp] theorem codesBuilt_wacc (s : State) : s.codesBuilt.wacc = s.wacc := rfl
@[simp] theorem codesBuilt_wn (s : State) : s.codesBuilt.wn = s.wn := rfl
@[simp] theorem codesBuilt_tree (s : State) : s.codesBuilt.tree = s.tree := rfl
@[simp] theorem codesBuilt_rbyte (s : State) : s.codesBuilt.rbyte = s.rbyte := rfl
@[simp] theorem codesBuilt_rn (s : State) : s.codesBuilt.rn = s.rn := rfl
@[simp] theorem codesBuilt_inq (s : State) : s.codesBuilt.inq = s.inq := rfl
@[simp] theorem codesBuilt_outq (s : State) : s.codesBuilt.outq = s.outq := rfl
@[simp] theorem codesBuilt_agenda (s : State) : s.codesBuilt.agenda = s.agenda := rfl
@[simp] theorem codesBuilt_readLog (s : State) : s.codesBuilt.readLog = s.readLog := rfl

@[simp] theorem treeBuilt_pending (s : State) : s.treeBuilt.pending = s.pending := rfl
@[simp] theorem treeBuilt_data (s : State) : s.treeBuilt.data = s.data := rfl
@[simp] theorem treeBuilt_size (s : State) : s.treeBuilt.size = s.size := rfl
@[simp] theorem treeBuilt_result (s : State) : s.treeBuilt.result = s.result := rfl
@[simp] theorem treeBuilt_err (s : State) : s.treeBuilt.err = s.err := rfl
@[simp] theorem treeBuilt_errcode (s : State) : s.treeBuilt.errcode = s.errcode := rfl
@[simp] theorem treeBuilt_eos (s : State) : s.treeBuilt.eos = s.eos := rfl
@[simp] theorem treeBuilt_inClosed (s : State) : s.treeBuilt.inClosed = s.inClosed := rfl
@[simp] theorem treeBuilt_inDrop (s : State) : s.treeBuilt.inDrop = s.inDrop := rfl
@[simp] theorem treeBuilt_codesValid (s : State) : s.treeBuilt.codesValid = s.codesValid := rfl
@[simp] theorem treeBuilt_treeValid (s : State) : s.treeBuilt.treeValid = true := rfl
@[simp] theorem treeBuilt_freq (s : State) : s.treeBuilt.freq = s.freq := rfl
@[simp] theorem treeBuilt_len (s : State) : s.treeBuilt.len = s.len := rfl
@[simp] theorem treeBuilt_code (s : State) : s.treeBuilt.code = s.code := rfl
@[simp] theorem treeBuilt_wacc (s : State) : s.treeBuilt.wacc = s.wacc := rfl
@[simp] theorem treeBuilt_wn (s : State) : s.treeBuilt.wn = s.wn := rfl
@[simp] theorem treeBuilt_tree (s : State) : s.treeBuilt.tree = s.tree := rfl
@[simp] theorem treeBuilt_rbyte (s : State) : s.treeBuilt.rbyte = s.rbyte := rfl
@[simp] theorem treeBuilt_rn (s : State) : s.treeBuilt.rn = s.rn := rfl
@[simp] theorem treeBuilt_inq (s : State) : s.treeBuilt.inq = s.inq := rfl
@[simp] theorem treeBuilt_outq (s : State) : s.treeBuilt.outq = s.outq := rfl
@[simp] theorem treeBuilt_agenda (s : State) : s.treeBuilt.agenda = s.agenda := rfl
@[simp] theorem treeBuilt_readLog (s : State) : s.treeBuilt.readLog = s.readLog := rfl

@[simp] theorem recordError_pending (e : ErrorCode) (s : State) : (recordError e s).pending = s.pending := rfl
@[simp] theorem recordError_data (e : ErrorCode) (s : State) : (recordError e s).data = s.data := rfl
@[simp] theorem recordError_size (e : ErrorCode) (s : State) : (recordError e s).size = s.size := rfl
@[simp] theorem recordError_result (e : ErrorCode) (s : State) : (recordError e s).result = s.result := rfl
@[simp] theorem recordError_err (e : ErrorCode) (s : State) : (recordError e s).err = true := rfl
@[simp] theorem recordError_errcode (e : ErrorCode) (s : State) : (recordError e s).errcode = if s.err then s.errcode else e.number := rfl
@[simp] theorem recordError_eos (e : ErrorCode) (s : State) : (recordError e s).eos = s.eos := rfl
@[simp] theorem recordError_inClosed (e : ErrorCode) (s : State) : (recordError e s).inClosed = s.inClosed := rfl
@[simp] theorem recordError_inDrop (e : ErrorCode) (s : State) : (recordError e s).inDrop = s.inDrop := rfl
@[simp] theorem recordError_codesValid (e : ErrorCode) (s : State) : (recordError e s).codesValid = s.codesValid := rfl
@[simp] theorem recordError_treeValid (e : ErrorCode) (s : State) : (recordError e s).treeValid = s.treeValid := rfl
@[simp] theorem recordError_freq (e : ErrorCode) (s : State) : (recordError e s).freq = s.freq := rfl
@[simp] theorem recordError_len (e : ErrorCode) (s : State) : (recordError e s).len = s.len := rfl
@[simp] theorem recordError_code (e : ErrorCode) (s : State) : (recordError e s).code = s.code := rfl
@[simp] theorem recordError_wacc (e : ErrorCode) (s : State) : (recordError e s).wacc = s.wacc := rfl
@[simp] theorem recordError_wn (e : ErrorCode) (s : State) : (recordError e s).wn = s.wn := rfl
@[simp] theorem recordError_tree (e : ErrorCode) (s : State) : (recordError e s).tree = s.tree := rfl
@[simp] theorem recordError_rbyte (e : ErrorCode) (s : State) : (recordError e s).rbyte = s.rbyte := rfl
@[simp] theorem recordError_rn (e : ErrorCode) (s : State) : (recordError e s).rn = s.rn := rfl
@[simp] theorem recordError_inq (e : ErrorCode) (s : State) : (recordError e s).inq = s.inq := rfl
@[simp] theorem recordError_outq (e : ErrorCode) (s : State) : (recordError e s).outq = s.outq := rfl
@[simp] theorem recordError_agenda (e : ErrorCode) (s : State) : (recordError e s).agenda = s.agenda := rfl
@[simp] theorem recordError_readLog (e : ErrorCode) (s : State) : (recordError e s).readLog = s.readLog := rfl

@[simp] theorem clearErrorRecord_pending (s : State) : (clearErrorRecord s).pending = s.pending := rfl
@[simp] theorem clearErrorRecord_data (s : State) : (clearErrorRecord s).data = s.data := rfl
@[simp] theorem clearErrorRecord_size (s : State) : (clearErrorRecord s).size = s.size := rfl
@[simp] theorem clearErrorRecord_result (s : State) : (clearErrorRecord s).result = s.result := rfl
@[simp] theorem clearErrorRecord_err (s : State) : (clearErrorRecord s).err = false := rfl
@[simp] theorem clearErrorRecord_errcode (s : State) : (clearErrorRecord s).errcode = 0 := rfl
@[simp] theorem clearErrorRecord_eos (s : State) : (clearErrorRecord s).eos = s.eos := rfl
@[simp] theorem clearErrorRecord_inClosed (s : State) : (clearErrorRecord s).inClosed = s.inClosed := rfl
@[simp] theorem clearErrorRecord_inDrop (s : State) : (clearErrorRecord s).inDrop = false := rfl
@[simp] theorem clearErrorRecord_codesValid (s : State) : (clearErrorRecord s).codesValid = s.codesValid := rfl
@[simp] theorem clearErrorRecord_treeValid (s : State) : (clearErrorRecord s).treeValid = s.treeValid := rfl
@[simp] theorem clearErrorRecord_freq (s : State) : (clearErrorRecord s).freq = s.freq := rfl
@[simp] theorem clearErrorRecord_len (s : State) : (clearErrorRecord s).len = s.len := rfl
@[simp] theorem clearErrorRecord_code (s : State) : (clearErrorRecord s).code = s.code := rfl
@[simp] theorem clearErrorRecord_wacc (s : State) : (clearErrorRecord s).wacc = s.wacc := rfl
@[simp] theorem clearErrorRecord_wn (s : State) : (clearErrorRecord s).wn = s.wn := rfl
@[simp] theorem clearErrorRecord_tree (s : State) : (clearErrorRecord s).tree = s.tree := rfl
@[simp] theorem clearErrorRecord_rbyte (s : State) : (clearErrorRecord s).rbyte = s.rbyte := rfl
@[simp] theorem clearErrorRecord_rn (s : State) : (clearErrorRecord s).rn = s.rn := rfl
@[simp] theorem clearErrorRecord_inq (s : State) : (clearErrorRecord s).inq = s.inq := rfl
@[simp] theorem clearErrorRecord_outq (s : State) : (clearErrorRecord s).outq = s.outq := rfl
@[simp] theorem clearErrorRecord_agenda (s : State) : (clearErrorRecord s).agenda = s.agenda := rfl
@[simp] theorem clearErrorRecord_readLog (s : State) : (clearErrorRecord s).readLog = s.readLog := rfl

@[simp] theorem pushOut_pending (b : Byte) (s : State) : (pushOut b s).pending = s.pending := rfl
@[simp] theorem pushOut_data (b : Byte) (s : State) : (pushOut b s).data = s.data := rfl
@[simp] theorem pushOut_size (b : Byte) (s : State) : (pushOut b s).size = s.size := rfl
@[simp] theorem pushOut_result (b : Byte) (s : State) : (pushOut b s).result = s.result := rfl
@[simp] theorem pushOut_err (b : Byte) (s : State) : (pushOut b s).err = s.err := rfl
@[simp] theorem pushOut_errcode (b : Byte) (s : State) : (pushOut b s).errcode = s.errcode := rfl
@[simp] theorem pushOut_eos (b : Byte) (s : State) : (pushOut b s).eos = s.eos := rfl
@[simp] theorem pushOut_inClosed (b : Byte) (s : State) : (pushOut b s).inClosed = s.inClosed := rfl
@[simp] theorem pushOut_inDrop (b : Byte) (s : State) : (pushOut b s).inDrop = s.inDrop := rfl
@[simp] theorem pushOut_codesValid (b : Byte) (s : State) : (pushOut b s).codesValid = s.codesValid := rfl
@[simp] theorem pushOut_treeValid (b : Byte) (s : State) : (pushOut b s).treeValid = s.treeValid := rfl
@[simp] theorem pushOut_freq (b : Byte) (s : State) : (pushOut b s).freq = s.freq := rfl
@[simp] theorem pushOut_len (b : Byte) (s : State) : (pushOut b s).len = s.len := rfl
@[simp] theorem pushOut_code (b : Byte) (s : State) : (pushOut b s).code = s.code := rfl
@[simp] theorem pushOut_wacc (b : Byte) (s : State) : (pushOut b s).wacc = s.wacc := rfl
@[simp] theorem pushOut_wn (b : Byte) (s : State) : (pushOut b s).wn = s.wn := rfl
@[simp] theorem pushOut_tree (b : Byte) (s : State) : (pushOut b s).tree = s.tree := rfl
@[simp] theorem pushOut_rbyte (b : Byte) (s : State) : (pushOut b s).rbyte = s.rbyte := rfl
@[simp] theorem pushOut_rn (b : Byte) (s : State) : (pushOut b s).rn = s.rn := rfl
@[simp] theorem pushOut_inq (b : Byte) (s : State) : (pushOut b s).inq = s.inq := rfl
@[simp] theorem pushOut_outq (b : Byte) (s : State) : (pushOut b s).outq = s.outq ++ [b] := rfl
@[simp] theorem pushOut_agenda (b : Byte) (s : State) : (pushOut b s).agenda = s.agenda := rfl
@[simp] theorem pushOut_readLog (b : Byte) (s : State) : (pushOut b s).readLog = s.readLog := rfl

@[simp] theorem pullByte_pending (b : Byte) (rest : List Byte) (s : State) : (pullByte b rest s).pending = s.pending := rfl
@[simp] theorem pullByte_data (b : Byte) (rest : List Byte) (s : State) : (pullByte b rest s).data = s.data := rfl
@[simp] theorem pullByte_size (b : Byte) (rest : List Byte) (s : State) : (pullByte b rest s).size = s.size := rfl
@[simp] theorem pullByte_result (b : Byte) (rest : List Byte) (s : State) : (pullByte b rest s).result = s.result := rfl
@[simp] theorem pullByte_err (b : Byte) (rest : List Byte) (s : State) : (pullByte b rest s).err = s.err := rfl
@[simp] theorem pullByte_errcode (b : Byte) (rest : List Byte) (s : State) : (pullByte b rest s).errcode = s.errcode := rfl
@[simp] theorem pullByte_eos (b : Byte) (rest : List Byte) (s : State) : (pullByte b rest s).eos = s.eos := rfl
@[simp] theorem pullByte_inClosed (b : Byte) (rest : List Byte) (s : State) : (pullByte b rest s).inClosed = s.inClosed := rfl
@[simp] theorem pullByte_inDrop (b : Byte) (rest : List Byte) (s : State) : (pullByte b rest s).inDrop = s.inDrop := rfl
@[simp] theorem pullByte_codesValid (b : Byte) (rest : List Byte) (s : State) : (pullByte b rest s).codesValid = s.codesValid := rfl
@[simp] theorem pullByte_treeValid (b : Byte) (rest : List Byte) (s : State) : (pullByte b rest s).treeValid = s.treeValid := rfl
@[simp] theorem pullByte_freq (b : Byte) (rest : List Byte) (s : State) : (pullByte b rest s).freq = s.freq := rfl
@[simp] theorem pullByte_len (b : Byte) (rest : List Byte) (s : State) : (pullByte b rest s).len = s.len := rfl
@[simp] theorem pullByte_code (b : Byte) (rest : List Byte) (s : State) : (pullByte b rest s).code = s.code := rfl
@[simp] theorem pullByte_wacc (b : Byte) (rest : List Byte) (s : State) : (pullByte b rest s).wacc = s.wacc := rfl
@[simp] theorem pullByte_wn (b : Byte) (rest : List Byte) (s : State) : (pullByte b rest s).wn = s.wn := rfl
@[simp] theorem pullByte_tree (b : Byte) (rest : List Byte) (s : State) : (pullByte b rest s).tree = s.tree := rfl
@[simp] theorem pullByte_rbyte (b : Byte) (rest : List Byte) (s : State) : (pullByte b rest s).rbyte = b := rfl
@[simp] theorem pullByte_rn (b : Byte) (rest : List Byte) (s : State) : (pullByte b rest s).rn = 8 := rfl
@[simp] theorem pullByte_inq (b : Byte) (rest : List Byte) (s : State) : (pullByte b rest s).inq = rest := rfl
@[simp] theorem pullByte_outq (b : Byte) (rest : List Byte) (s : State) : (pullByte b rest s).outq = s.outq := rfl
@[simp] theorem pullByte_agenda (b : Byte) (rest : List Byte) (s : State) : (pullByte b rest s).agenda = s.agenda := rfl
@[simp] theorem pullByte_readLog (b : Byte) (rest : List Byte) (s : State) : (pullByte b rest s).readLog = s.readLog := rfl

@[simp] theorem writerEmptied_pending (s : State) : s.writerEmptied.pending = s.pending := rfl
@[simp] theorem writerEmptied_data (s : State) : s.writerEmptied.data = s.data := rfl
@[simp] theorem writerEmptied_size (s : State) : s.writerEmptied.size = s.size := rfl
@[simp] theorem writerEmptied_result (s : State) : s.writerEmptied.result = s.result := rfl
@[simp] theorem writerEmptied_err (s : State) : s.writerEmptied.err = s.err := rfl
@[simp] theorem writerEmptied_errcode (s : State) : s.writerEmptied.errcode = s.errcode := rfl
@[simp] theorem writerEmptied_eos (s : State) : s.writerEmptied.eos = s.eos := rfl
@[simp] theorem writerEmptied_inClosed (s : State) : s.writerEmptied.inClosed = s.inClosed := rfl
@[simp] theorem writerEmptied_inDrop (s : State) : s.writerEmptied.inDrop = s.inDrop := rfl
@[simp] theorem writerEmptied_codesValid (s : State) : s.writerEmptied.codesValid = s.codesValid := rfl
@[simp] theorem writerEmptied_treeValid (s : State) : s.writerEmptied.treeValid = s.treeValid := rfl
@[simp] theorem writerEmptied_freq (s : State) : s.writerEmptied.freq = s.freq := rfl
@[simp] theorem writerEmptied_len (s : State) : s.writerEmptied.len = s.len := rfl
@[simp] theorem writerEmptied_code (s : State) : s.writerEmptied.code = s.code := rfl
@[simp] theorem writerEmptied_wacc (s : State) : s.writerEmptied.wacc = 0 := rfl
@[simp] theorem writerEmptied_wn (s : State) : s.writerEmptied.wn = 0 := rfl
@[simp] theorem writerEmptied_tree (s : State) : s.writerEmptied.tree = s.tree := rfl
@[simp] theorem writerEmptied_rbyte (s : State) : s.writerEmptied.rbyte = s.rbyte := rfl
@[simp] theorem writerEmptied_rn (s : State) : s.writerEmptied.rn = s.rn := rfl
@[simp] theorem writerEmptied_inq (s : State) : s.writerEmptied.inq = s.inq := rfl
@[simp] theorem writerEmptied_outq (s : State) : s.writerEmptied.outq = s.outq := rfl
@[simp] theorem writerEmptied_agenda (s : State) : s.writerEmptied.agenda = s.agenda := rfl
@[simp] theorem writerEmptied_readLog (s : State) : s.writerEmptied.readLog = s.readLog := rfl

@[simp] theorem clearFrequencies_pending (s : State) : (clearFrequencies s).pending = s.pending := rfl
@[simp] theorem clearFrequencies_data (s : State) : (clearFrequencies s).data = s.data := rfl
@[simp] theorem clearFrequencies_size (s : State) : (clearFrequencies s).size = s.size := rfl
@[simp] theorem clearFrequencies_result (s : State) : (clearFrequencies s).result = s.result := rfl
@[simp] theorem clearFrequencies_err (s : State) : (clearFrequencies s).err = s.err := rfl
@[simp] theorem clearFrequencies_errcode (s : State) : (clearFrequencies s).errcode = s.errcode := rfl
@[simp] theorem clearFrequencies_eos (s : State) : (clearFrequencies s).eos = s.eos := rfl
@[simp] theorem clearFrequencies_inClosed (s : State) : (clearFrequencies s).inClosed = s.inClosed := rfl
@[simp] theorem clearFrequencies_inDrop (s : State) : (clearFrequencies s).inDrop = s.inDrop := rfl
@[simp] theorem clearFrequencies_codesValid (s : State) : (clearFrequencies s).codesValid = s.codesValid := rfl
@[simp] theorem clearFrequencies_treeValid (s : State) : (clearFrequencies s).treeValid = s.treeValid := rfl
@[simp] theorem clearFrequencies_freq (s : State) : (clearFrequencies s).freq = Table.tabulate fun _ => 0 := rfl
@[simp] theorem clearFrequencies_len (s : State) : (clearFrequencies s).len = s.len := rfl
@[simp] theorem clearFrequencies_code (s : State) : (clearFrequencies s).code = s.code := rfl
@[simp] theorem clearFrequencies_wacc (s : State) : (clearFrequencies s).wacc = s.wacc := rfl
@[simp] theorem clearFrequencies_wn (s : State) : (clearFrequencies s).wn = s.wn := rfl
@[simp] theorem clearFrequencies_tree (s : State) : (clearFrequencies s).tree = s.tree := rfl
@[simp] theorem clearFrequencies_rbyte (s : State) : (clearFrequencies s).rbyte = s.rbyte := rfl
@[simp] theorem clearFrequencies_rn (s : State) : (clearFrequencies s).rn = s.rn := rfl
@[simp] theorem clearFrequencies_inq (s : State) : (clearFrequencies s).inq = s.inq := rfl
@[simp] theorem clearFrequencies_outq (s : State) : (clearFrequencies s).outq = s.outq := rfl
@[simp] theorem clearFrequencies_agenda (s : State) : (clearFrequencies s).agenda = s.agenda := rfl
@[simp] theorem clearFrequencies_readLog (s : State) : (clearFrequencies s).readLog = s.readLog := rfl

@[simp] theorem countSymbol_pending (sym : Nat) (s : State) : (countSymbol sym s).pending = s.pending := rfl
@[simp] theorem countSymbol_data (sym : Nat) (s : State) : (countSymbol sym s).data = s.data := rfl
@[simp] theorem countSymbol_size (sym : Nat) (s : State) : (countSymbol sym s).size = s.size := rfl
@[simp] theorem countSymbol_result (sym : Nat) (s : State) : (countSymbol sym s).result = s.result := rfl
@[simp] theorem countSymbol_err (sym : Nat) (s : State) : (countSymbol sym s).err = s.err := rfl
@[simp] theorem countSymbol_errcode (sym : Nat) (s : State) : (countSymbol sym s).errcode = s.errcode := rfl
@[simp] theorem countSymbol_eos (sym : Nat) (s : State) : (countSymbol sym s).eos = s.eos := rfl
@[simp] theorem countSymbol_inClosed (sym : Nat) (s : State) : (countSymbol sym s).inClosed = s.inClosed := rfl
@[simp] theorem countSymbol_inDrop (sym : Nat) (s : State) : (countSymbol sym s).inDrop = s.inDrop := rfl
@[simp] theorem countSymbol_codesValid (sym : Nat) (s : State) : (countSymbol sym s).codesValid = s.codesValid := rfl
@[simp] theorem countSymbol_treeValid (sym : Nat) (s : State) : (countSymbol sym s).treeValid = s.treeValid := rfl
@[simp] theorem countSymbol_freq (sym : Nat) (s : State) : (countSymbol sym s).freq = s.freq.write sym (s.freq.read sym + 1) := rfl
@[simp] theorem countSymbol_len (sym : Nat) (s : State) : (countSymbol sym s).len = s.len := rfl
@[simp] theorem countSymbol_code (sym : Nat) (s : State) : (countSymbol sym s).code = s.code := rfl
@[simp] theorem countSymbol_wacc (sym : Nat) (s : State) : (countSymbol sym s).wacc = s.wacc := rfl
@[simp] theorem countSymbol_wn (sym : Nat) (s : State) : (countSymbol sym s).wn = s.wn := rfl
@[simp] theorem countSymbol_tree (sym : Nat) (s : State) : (countSymbol sym s).tree = s.tree := rfl
@[simp] theorem countSymbol_rbyte (sym : Nat) (s : State) : (countSymbol sym s).rbyte = s.rbyte := rfl
@[simp] theorem countSymbol_rn (sym : Nat) (s : State) : (countSymbol sym s).rn = s.rn := rfl
@[simp] theorem countSymbol_inq (sym : Nat) (s : State) : (countSymbol sym s).inq = s.inq := rfl
@[simp] theorem countSymbol_outq (sym : Nat) (s : State) : (countSymbol sym s).outq = s.outq := rfl
@[simp] theorem countSymbol_agenda (sym : Nat) (s : State) : (countSymbol sym s).agenda = s.agenda := rfl
@[simp] theorem countSymbol_readLog (sym : Nat) (s : State) : (countSymbol sym s).readLog = s.readLog := rfl

@[simp] theorem emptyReader_pending (s : State) : (emptyReader s).pending = s.pending := rfl
@[simp] theorem emptyReader_data (s : State) : (emptyReader s).data = s.data := rfl
@[simp] theorem emptyReader_size (s : State) : (emptyReader s).size = s.size := rfl
@[simp] theorem emptyReader_result (s : State) : (emptyReader s).result = s.result := rfl
@[simp] theorem emptyReader_err (s : State) : (emptyReader s).err = s.err := rfl
@[simp] theorem emptyReader_errcode (s : State) : (emptyReader s).errcode = s.errcode := rfl
@[simp] theorem emptyReader_eos (s : State) : (emptyReader s).eos = false := rfl
@[simp] theorem emptyReader_inClosed (s : State) : (emptyReader s).inClosed = false := rfl
@[simp] theorem emptyReader_inDrop (s : State) : (emptyReader s).inDrop = s.inDrop := rfl
@[simp] theorem emptyReader_codesValid (s : State) : (emptyReader s).codesValid = s.codesValid := rfl
@[simp] theorem emptyReader_treeValid (s : State) : (emptyReader s).treeValid = s.treeValid := rfl
@[simp] theorem emptyReader_freq (s : State) : (emptyReader s).freq = s.freq := rfl
@[simp] theorem emptyReader_len (s : State) : (emptyReader s).len = s.len := rfl
@[simp] theorem emptyReader_code (s : State) : (emptyReader s).code = s.code := rfl
@[simp] theorem emptyReader_wacc (s : State) : (emptyReader s).wacc = s.wacc := rfl
@[simp] theorem emptyReader_wn (s : State) : (emptyReader s).wn = s.wn := rfl
@[simp] theorem emptyReader_tree (s : State) : (emptyReader s).tree = s.tree := rfl
@[simp] theorem emptyReader_rbyte (s : State) : (emptyReader s).rbyte = 0 := rfl
@[simp] theorem emptyReader_rn (s : State) : (emptyReader s).rn = 0 := rfl
@[simp] theorem emptyReader_inq (s : State) : (emptyReader s).inq = [] := rfl
@[simp] theorem emptyReader_outq (s : State) : (emptyReader s).outq = s.outq := rfl
@[simp] theorem emptyReader_agenda (s : State) : (emptyReader s).agenda = s.agenda := rfl
@[simp] theorem emptyReader_readLog (s : State) : (emptyReader s).readLog = s.readLog := rfl

@[simp] theorem softReset_pending (s : State) : (softReset s).pending = none := rfl
@[simp] theorem softReset_data (s : State) : (softReset s).data = 0 := rfl
@[simp] theorem softReset_size (s : State) : (softReset s).size = 256 := rfl
@[simp] theorem softReset_result (s : State) : (softReset s).result = 0 := rfl
@[simp] theorem softReset_err (s : State) : (softReset s).err = false := rfl
@[simp] theorem softReset_errcode (s : State) : (softReset s).errcode = 0 := rfl
@[simp] theorem softReset_eos (s : State) : (softReset s).eos = false := rfl
@[simp] theorem softReset_inClosed (s : State) : (softReset s).inClosed = false := rfl
@[simp] theorem softReset_inDrop (s : State) : (softReset s).inDrop = false := rfl
@[simp] theorem softReset_codesValid (s : State) : (softReset s).codesValid = false := rfl
@[simp] theorem softReset_treeValid (s : State) : (softReset s).treeValid = false := rfl
@[simp] theorem softReset_freq (s : State) : (softReset s).freq = s.freq := rfl
@[simp] theorem softReset_len (s : State) : (softReset s).len = s.len := rfl
@[simp] theorem softReset_code (s : State) : (softReset s).code = s.code := rfl
@[simp] theorem softReset_wacc (s : State) : (softReset s).wacc = 0 := rfl
@[simp] theorem softReset_wn (s : State) : (softReset s).wn = 0 := rfl
@[simp] theorem softReset_tree (s : State) : (softReset s).tree = s.tree := rfl
@[simp] theorem softReset_rbyte (s : State) : (softReset s).rbyte = 0 := rfl
@[simp] theorem softReset_rn (s : State) : (softReset s).rn = 0 := rfl
@[simp] theorem softReset_inq (s : State) : (softReset s).inq = [] := rfl
@[simp] theorem softReset_outq (s : State) : (softReset s).outq = [] := rfl
@[simp] theorem softReset_agenda (s : State) : (softReset s).agenda = s.agenda := rfl
@[simp] theorem softReset_readLog (s : State) : (softReset s).readLog = s.readLog := rfl

@[simp] theorem writeLen_pending (i : Nat) (v : Word) (s : State) : (writeLen i v s).pending = s.pending := rfl
@[simp] theorem writeLen_data (i : Nat) (v : Word) (s : State) : (writeLen i v s).data = s.data := rfl
@[simp] theorem writeLen_size (i : Nat) (v : Word) (s : State) : (writeLen i v s).size = s.size := rfl
@[simp] theorem writeLen_result (i : Nat) (v : Word) (s : State) : (writeLen i v s).result = s.result := rfl
@[simp] theorem writeLen_err (i : Nat) (v : Word) (s : State) : (writeLen i v s).err = s.err := rfl
@[simp] theorem writeLen_errcode (i : Nat) (v : Word) (s : State) : (writeLen i v s).errcode = s.errcode := rfl
@[simp] theorem writeLen_eos (i : Nat) (v : Word) (s : State) : (writeLen i v s).eos = s.eos := rfl
@[simp] theorem writeLen_inClosed (i : Nat) (v : Word) (s : State) : (writeLen i v s).inClosed = s.inClosed := rfl
@[simp] theorem writeLen_inDrop (i : Nat) (v : Word) (s : State) : (writeLen i v s).inDrop = s.inDrop := rfl
@[simp] theorem writeLen_codesValid (i : Nat) (v : Word) (s : State) : (writeLen i v s).codesValid = false := rfl
@[simp] theorem writeLen_treeValid (i : Nat) (v : Word) (s : State) : (writeLen i v s).treeValid = false := rfl
@[simp] theorem writeLen_freq (i : Nat) (v : Word) (s : State) : (writeLen i v s).freq = s.freq := rfl
@[simp] theorem writeLen_len (i : Nat) (v : Word) (s : State) : (writeLen i v s).len = s.len.write i (v.setWidth 8) := rfl
@[simp] theorem writeLen_code (i : Nat) (v : Word) (s : State) : (writeLen i v s).code = s.code := rfl
@[simp] theorem writeLen_wacc (i : Nat) (v : Word) (s : State) : (writeLen i v s).wacc = s.wacc := rfl
@[simp] theorem writeLen_wn (i : Nat) (v : Word) (s : State) : (writeLen i v s).wn = s.wn := rfl
@[simp] theorem writeLen_tree (i : Nat) (v : Word) (s : State) : (writeLen i v s).tree = s.tree := rfl
@[simp] theorem writeLen_rbyte (i : Nat) (v : Word) (s : State) : (writeLen i v s).rbyte = s.rbyte := rfl
@[simp] theorem writeLen_rn (i : Nat) (v : Word) (s : State) : (writeLen i v s).rn = s.rn := rfl
@[simp] theorem writeLen_inq (i : Nat) (v : Word) (s : State) : (writeLen i v s).inq = s.inq := rfl
@[simp] theorem writeLen_outq (i : Nat) (v : Word) (s : State) : (writeLen i v s).outq = s.outq := rfl
@[simp] theorem writeLen_agenda (i : Nat) (v : Word) (s : State) : (writeLen i v s).agenda = s.agenda := rfl
@[simp] theorem writeLen_readLog (i : Nat) (v : Word) (s : State) : (writeLen i v s).readLog = s.readLog := rfl

@[simp] theorem submit_pending (w : Word) (s : State) : (submit w s).pending = some w := rfl
@[simp] theorem submit_data (w : Word) (s : State) : (submit w s).data = s.data := rfl
@[simp] theorem submit_size (w : Word) (s : State) : (submit w s).size = s.size := rfl
@[simp] theorem submit_result (w : Word) (s : State) : (submit w s).result = s.result := rfl
@[simp] theorem submit_err (w : Word) (s : State) : (submit w s).err = s.err := rfl
@[simp] theorem submit_errcode (w : Word) (s : State) : (submit w s).errcode = s.errcode := rfl
@[simp] theorem submit_eos (w : Word) (s : State) : (submit w s).eos = s.eos := rfl
@[simp] theorem submit_inClosed (w : Word) (s : State) : (submit w s).inClosed = s.inClosed := rfl
@[simp] theorem submit_inDrop (w : Word) (s : State) : (submit w s).inDrop = s.inDrop := rfl
@[simp] theorem submit_codesValid (w : Word) (s : State) : (submit w s).codesValid = s.codesValid := rfl
@[simp] theorem submit_treeValid (w : Word) (s : State) : (submit w s).treeValid = s.treeValid := rfl
@[simp] theorem submit_freq (w : Word) (s : State) : (submit w s).freq = s.freq := rfl
@[simp] theorem submit_len (w : Word) (s : State) : (submit w s).len = s.len := rfl
@[simp] theorem submit_code (w : Word) (s : State) : (submit w s).code = s.code := rfl
@[simp] theorem submit_wacc (w : Word) (s : State) : (submit w s).wacc = s.wacc := rfl
@[simp] theorem submit_wn (w : Word) (s : State) : (submit w s).wn = s.wn := rfl
@[simp] theorem submit_tree (w : Word) (s : State) : (submit w s).tree = s.tree := rfl
@[simp] theorem submit_rbyte (w : Word) (s : State) : (submit w s).rbyte = s.rbyte := rfl
@[simp] theorem submit_rn (w : Word) (s : State) : (submit w s).rn = s.rn := rfl
@[simp] theorem submit_inq (w : Word) (s : State) : (submit w s).inq = s.inq := rfl
@[simp] theorem submit_outq (w : Word) (s : State) : (submit w s).outq = s.outq := rfl
@[simp] theorem submit_agenda (w : Word) (s : State) : (submit w s).agenda = engineNext s.agenda := rfl
@[simp] theorem submit_readLog (w : Word) (s : State) : (submit w s).readLog = s.readLog := rfl

end Sys2Proof.Machine
end

