-- ==== Sys2Proof/Laws/Ops.lean ====
section
/-! SUPPORT. What each shared operation can do, said once. -/

namespace Sys2Proof.Machine

/-! ## Endings -/

@[simp] theorem settle_done (s t : State) : settle s (.done t) = { t with pending := none } := rfl

@[simp] theorem settle_hold (s : State) : settle s .hold = s := rfl

@[simp] theorem settle_error (s t : State) (e : ErrorCode) :
    settle s (.error e t) = recordError e { t with pending := none } := rfl

@[simp] theorem finish_eq (s : State) (r : Ending) : finish s r = .next (settle s r) := rfl

@[simp] theorem doneOrHold_some (t : State) : doneOrHold (some t) = .done t := rfl

@[simp] theorem doneOrHold_none : doneOrHold none = .hold := rfl

/-! ## The depths -/

theorem four_le_inDepth : 4 ≤ Config.inDepth := Nat.le_add_left 4 _

theorem four_le_outDepth : 4 ≤ Config.outDepth := Nat.le_add_left 4 _

/-- A field shows every count that fits it. -/
theorem countField_of_lt {n : Nat} (h : n < 65536) : countField n = BitVec.ofNat 16 n := if_pos h

/-- What a read of FIFO_STAT returns: R63's number, or the register. -/
theorem State.fifoStatRead_cases (s : State) :
    (s.fifoCounts < 2 ^ 32 ∧ s.fifoStatRead = BitVec.ofNat 32 s.fifoCounts) ∨
    (2 ^ 32 ≤ s.fifoCounts ∧ s.fifoStatRead = s.fifoStat) := by
  unfold State.fifoStatRead
  split
  · exact .inl ⟨‹_›, rfl⟩
  · exact .inr ⟨Nat.le_of_not_lt ‹_›, rfl⟩

/-! ## The bit writer -/

/-- `writeBit` holds exactly when it completes a byte and OUTQ is full. -/
theorem writeBit_eq_none {b : Bool} {s : State} :
    writeBit b s = none ↔ s.wn = 7 ∧ s.outq.length = Config.outDepth := by
  by_cases hw : s.wn = 7 <;> by_cases hf : s.outq.length = Config.outDepth <;>
    simp [writeBit, hw, hf]

/-- If `writeBit` answers, it either completes a byte or keeps the bit. -/
theorem writeBit_cases {b : Bool} {s t : State} (h : writeBit b s = some t) :
    (s.wn = 7 ∧ s.outq.length ≠ Config.outDepth ∧
      t = { s with wacc := 0, wn := 0, outq := s.outq ++ [accumulate s.wacc b] }) ∨
    (s.wn ≠ 7 ∧ t = { s with wacc := accumulate s.wacc b, wn := s.wn + 1 }) := by
  unfold writeBit at h
  split at h
  · split at h
    · cases h
    · cases h
      exact .inl ⟨by omega, ‹_›, rfl⟩
  · cases h
    exact .inr ⟨by omega, rfl⟩

@[simp] theorem writeBits_zero (v : Word) (s : State) : writeBits v 0 s = some s := rfl

theorem writeBits_succ (v : Word) (n : Nat) (s : State) :
    writeBits v (n + 1) s = (writeBit (v.getLsbD n) s).bind (writeBits v n) := rfl

/-- If `writeBits` answers, only the accumulator, its count and OUTQ have changed. -/
theorem writeBits_frame {v : Word} {n : Nat} {s t : State} (h : writeBits v n s = some t) :
    t = { s with wacc := t.wacc, wn := t.wn, outq := t.outq } := by
  induction n generalizing s with
  | zero => cases h; rfl
  | succ n ih =>
    obtain ⟨u, hu, hr⟩ := Option.bind_eq_some_iff.mp h
    have hf := ih hr
    rcases writeBit_cases hu with ⟨-, -, rfl⟩ | ⟨-, rfl⟩ <;> exact hf

/-- What `closeWriter` does: nothing, a hold, or one padded byte. -/
theorem closeWriter_cases (s : State) :
    (s.wn = 0 ∧ closeWriter s = some s) ∨
    (0 < s.wn ∧ s.outq.length = Config.outDepth ∧ closeWriter s = none) ∨
    (0 < s.wn ∧ s.outq.length ≠ Config.outDepth ∧
      closeWriter s = some { s with wacc := 0, wn := 0, outq := s.outq ++ [s.wacc <<< (8 - s.wn)] }) := by
  unfold closeWriter
  by_cases hz : 0 < s.wn
  · by_cases hf : s.outq.length = Config.outDepth
    · exact .inr (.inl ⟨hz, hf, by simp [hz, hf]⟩)
    · exact .inr (.inr ⟨hz, hf, by simp [hz, hf, State.writerEmptied, pushOut]⟩)
  · exact .inl ⟨by omega, by simp [hz]⟩

/-! ## The bit reader -/

/-- The four things `readBit` can do. -/
theorem readBit_cases (s : State) :
    (s.rn = 0 ∧ s.inq = [] ∧ s.inClosed = true ∧ readBit s = .endOfStream) ∨
    (s.rn = 0 ∧ s.inq = [] ∧ s.inClosed = false ∧ readBit s = .hold) ∨
    (∃ b rest, s.rn = 0 ∧ s.inq = b :: rest ∧
      readBit s = .bit (b.getLsbD 7) { s with rbyte := b, rn := 7, inq := rest }) ∨
    (s.rn ≠ 0 ∧ readBit s = .bit (s.rbyte.getLsbD (s.rn - 1)) { s with rn := s.rn - 1 }) := by
  unfold readBit
  by_cases hz : s.rn = 0
  · cases hq : s.inq with
    | nil => cases hc : s.inClosed <;> simp [hz]
    | cons b rest => simp [hz, takeBit, pullByte]
  · simp [hz, takeBit]

/-- A bit read is one bit less available, and only the reader has changed. -/
theorem readBit_bit {b : Bool} {s t : State} (h : readBit s = .bit b t) :
    t.availableBits + 1 = s.availableBits ∧
      t = { s with rbyte := t.rbyte, rn := t.rn, inq := t.inq } := by
  rcases readBit_cases s with ⟨_, _, _, he⟩ | ⟨_, _, _, he⟩ | ⟨c, rest, hz, hq, he⟩ | ⟨hz, he⟩
  · rw [he] at h; cases h
  · rw [he] at h; cases h
  · rw [he] at h; cases h
    simp [State.availableBits, hz, hq]
    omega
  · rw [he] at h; cases h
    simp [State.availableBits]
    omega

/-! ## Bits in stream order -/

@[simp] theorem lowBits_zero {w : Nat} (v : BitVec w) : lowBits v 0 = [] := rfl

theorem lowBits_succ {w : Nat} (v : BitVec w) (n : Nat) :
    lowBits v (n + 1) = v.getLsbD n :: lowBits v n := rfl

@[simp] theorem lowBits_length {w : Nat} (v : BitVec w) (n : Nat) : (lowBits v n).length = n := by
  induction n with
  | zero => rfl
  | succ n ih => simp [lowBits_succ, ih]

@[simp] theorem streamBits_nil : streamBits [] = [] := rfl

@[simp] theorem streamBits_cons (b : Byte) (rest : List Byte) :
    streamBits (b :: rest) = lowBits b 8 ++ streamBits rest := rfl

@[simp] theorem streamBits_append (xs ys : List Byte) :
    streamBits (xs ++ ys) = streamBits xs ++ streamBits ys := by
  simp [streamBits]

/-- A bit read is the first of the unread bits. -/
theorem readBit_unread {b : Bool} {s t : State} (h : readBit s = .bit b t) :
    s.unreadBits = b :: t.unreadBits := by
  rcases readBit_cases s with ⟨_, _, _, he⟩ | ⟨_, _, _, he⟩ | ⟨c, rest, hz, hq, he⟩ | ⟨hz, he⟩
  · rw [he] at h; cases h
  · rw [he] at h; cases h
  · rw [he] at h; cases h
    simp [State.unreadBits, hz, hq, lowBits_succ]
  · rw [he] at h; cases h
    obtain ⟨n, hn⟩ := Nat.exists_eq_succ_of_ne_zero hz
    simp [State.unreadBits, hn, lowBits_succ]

end Sys2Proof.Machine
end

