-- ==== Sys2Proof/Laws/PerInstr.lean ====
section
/-! SUPPORT. Facts stated of every command, one lemma per constructor of Instr. -/

namespace Sys2Proof.Laws

/-- The word of a well-formed command leaves the reserved field Z at 0 (30_encoding.md R90). -/
def ReservedFieldZero.Statement (i : Instr) : Prop := i.wellFormed = true → zField (encode i) = 0

theorem ReservedFieldZero.nop : ReservedFieldZero.Statement .nop := fun _ => by decide
theorem ReservedFieldZero.srst : ReservedFieldZero.Statement .srst := fun _ => by decide
theorem ReservedFieldZero.clrerr : ReservedFieldZero.Statement .clrerr := fun _ => by decide
theorem ReservedFieldZero.frqclr : ReservedFieldZero.Statement .frqclr := fun _ => by decide
theorem ReservedFieldZero.frqinc (sym : Nat) : ReservedFieldZero.Statement (.frqinc sym) :=
  fun h => zField_commandWord (by decide) (by simpa [Instr.wellFormed] using h)
theorem ReservedFieldZero.bldlen : ReservedFieldZero.Statement .bldlen := fun _ => by decide
theorem ReservedFieldZero.bldcan : ReservedFieldZero.Statement .bldcan := fun _ => by decide
theorem ReservedFieldZero.bldtree : ReservedFieldZero.Statement .bldtree := fun _ => by decide
theorem ReservedFieldZero.wrbits (n : Nat) : ReservedFieldZero.Statement (.wrbits n) :=
  fun h => zField_commandWord (by decide) (by have : n < 64 := by simpa [Instr.wellFormed] using h
                                              omega)
theorem ReservedFieldZero.wrclose : ReservedFieldZero.Statement .wrclose := fun _ => by decide
theorem ReservedFieldZero.encsym (sym : Nat) : ReservedFieldZero.Statement (.encsym sym) :=
  fun h => zField_commandWord (by decide) (by simpa [Instr.wellFormed] using h)
theorem ReservedFieldZero.rdbit : ReservedFieldZero.Statement .rdbit := fun _ => by decide
theorem ReservedFieldZero.decsym : ReservedFieldZero.Statement .decsym := fun _ => by decide
theorem ReservedFieldZero.rdreset : ReservedFieldZero.Statement .rdreset := fun _ => by decide

end Sys2Proof.Laws
end

