-- ==== Sys2Proof/Laws/Script.lean ====
section
/-! SUPPORT. The small lemmas of host programs: values, accesses and jumps. -/

namespace Sys2Proof.Machine

@[simp] theorem HostRun.valueOf_const (h : HostRun) (v : Word) : h.valueOf (.const v) = v := rfl

@[simp] theorem HostRun.valueOf_name (h : HostRun) (n : String) :
    h.valueOf (.name n) = (h.names.lookup n).getD 0 := rfl

@[simp] theorem HostRun.advance_here (h : HostRun) : h.advance.here = h.here + 1 := rfl

@[simp] theorem HostRun.advance_machine (h : HostRun) : h.advance.machine = h.machine := rfl

@[simp] theorem HostRun.advance_program (h : HostRun) : h.advance.program = h.program := rfl

@[simp] theorem HostRun.goTo_machine (h : HostRun) (d : Target) : (h.goTo d).machine = h.machine := by
  cases d <;> rfl

@[simp] theorem HostRun.goTo_program (h : HostRun) (d : Target) : (h.goTo d).program = h.program := by
  cases d <;> rfl

@[simp] theorem HostRun.goTo_failed (h : HostRun) (d : Target) : (h.goTo d).failed = h.failed := by
  cases d <;> rfl

/-- After a write the program goes on at the next operation, with the machine the access left. -/
@[simp] theorem HostRun.afterAccess_next_none (h : HostRun) (s : State) :
    h.afterAccess none (.next s) = .next { h with machine := s, here := h.here + 1 } := rfl

/-- After a read the value joins the names as well. -/
@[simp] theorem HostRun.afterAccess_next_some (h : HostRun) (n : String) (s : State) :
    h.afterAccess (some n) (.next s) = .next
      { h with
        machine := s, here := h.here + 1, names := (n, s.readLog.getLast?.getD 0) :: h.names } := rfl

end Sys2Proof.Machine
end

