-- ==== Sys2Proof/Laws/Table.lean ====
section
/-! SUPPORT. Reading a table after building or writing it. -/

namespace Sys2Proof

theorem Table.read_of_lt {w : Nat} (t : Table w) {i : Nat} (h : i < 256) : t.read i = t[i] := by
  simp [Table.read, h]

/-- An index of 256 or more reads 0. -/
theorem Table.read_of_ge {w : Nat} (t : Table w) {i : Nat} (h : 256 ≤ i) : t.read i = 0 := by
  simp [Table.read, Nat.not_lt.mpr h]

@[simp] theorem Table.read_tabulate {w : Nat} (f : Nat → BitVec w) {i : Nat} (h : i < 256) :
    (Table.tabulate f).read i = f i := by
  simp [Table.read, Table.tabulate, h]

/-- A read after a write to the same entry gives the value written. -/
@[simp] theorem Table.read_write_same {w : Nat} (t : Table w) (v : BitVec w) {i : Nat}
    (h : i < 256) : (t.write i v).read i = v := by
  simp [Table.read, Table.write, h]

/-- A write leaves every other entry alone. -/
theorem Table.read_write_other {w : Nat} (t : Table w) (v : BitVec w) {i j : Nat} (h : i ≠ j) :
    (t.write i v).read j = t.read j := by
  simp [Table.read, Table.write, h]

/-- What a write can do to a read, said once. -/
theorem Table.read_write {w : Nat} (t : Table w) (v : BitVec w) (i j : Nat) :
    (t.write i v).read j = if i = j ∧ i < 256 then v else t.read j := by
  by_cases h : i = j
  · subst h
    by_cases hi : i < 256
    · simp [hi]
    · simp [hi, Table.read, Table.write]
  · simp [h, Table.read_write_other]

/-- Tables that read alike are the same table. -/
theorem Table.ext_read {w : Nat} {t u : Table w} (h : ∀ i, i < 256 → t.read i = u.read i) :
    t = u := by
  apply Vector.ext
  intro i hi
  simpa [Table.read_of_lt, hi] using h i hi

end Sys2Proof
end

