-- ==== Sys2Proof/Laws/Step.lean ====
section
/-! SUPPORT. What a step, a host access, a command and the builders' helpers can do, said once. -/

namespace Sys2Proof.Machine

/-! ## The commands as endings -/

@[simp] theorem exec_nop (s : State) : exec .nop s = .next (settle s (.done s)) := rfl
@[simp] theorem exec_srst (s : State) : exec .srst s = .next (settle s (.done (softReset s))) := rfl
@[simp] theorem exec_clrerr (s : State) :
    exec .clrerr s = .next (settle s (.done (clearErrorRecord s))) := rfl
@[simp] theorem exec_frqclr (s : State) :
    exec .frqclr s = .next (settle s (.done (clearFrequencies s))) := rfl
@[simp] theorem exec_frqinc (sym : Nat) (s : State) :
    exec (.frqinc sym) s = .next (settle s (frqinc sym s)) := rfl
@[simp] theorem exec_bldlen (s : State) : exec .bldlen s = .next (settle s (bldlen s)) := rfl
@[simp] theorem exec_bldcan (s : State) : exec .bldcan s = .next (settle s (bldcan s)) := rfl
@[simp] theorem exec_bldtree (s : State) : exec .bldtree s = .next (settle s (bldtree s)) := rfl
@[simp] theorem exec_wrbits (n : Nat) (s : State) :
    exec (.wrbits n) s = .next (settle s (wrbits n s)) := rfl
@[simp] theorem exec_wrclose (s : State) :
    exec .wrclose s = .next (settle s (doneOrHold (closeWriter s))) := rfl
@[simp] theorem exec_encsym (sym : Nat) (s : State) :
    exec (.encsym sym) s = .next (settle s (encsym sym s)) := rfl
@[simp] theorem exec_rdbit (s : State) : exec .rdbit s = .next (settle s (rdbit s)) := rfl
@[simp] theorem exec_decsym (s : State) : exec .decsym s = .next (settle s (decsym s)) := rfl
@[simp] theorem exec_rdreset (s : State) :
    exec .rdreset s = .next (settle s (.done (emptyReader s))) := rfl

/-! ## Steps -/

/-- What a step that answers can be: an idle turn, an ILLEGAL word, a command, or a host access. -/
theorem step_cases {s t : State} (h : step s = .next t) :
    (∃ a rest, s.agenda = .host a :: rest ∧ hostAccess a { s with agenda := rest } = .next t) ∨
    (∃ u, (s.agenda = [] ∧ u = s ∨ ∃ rest, s.agenda = .engine :: rest ∧ u = { s with agenda := rest }) ∧
      engineTurn u = .next t) := by
  unfold step takeTurn at h
  split at h
  · exact .inr ⟨s, .inl ⟨‹_›, rfl⟩, h⟩
  · exact .inr ⟨_, .inr ⟨_, ‹_›, rfl⟩, h⟩
  · exact .inl ⟨_, _, ‹_›, h⟩

/-- What an engine turn that answers can be. -/
theorem engineTurn_cases {s t : State} (h : engineTurn s = .next t) :
    (s.pending = none ∧ t = s) ∨
    (∃ w i, s.pending = some w ∧ decode w = .ok i ∧ exec i s = .next t) ∨
    (∃ w e, s.pending = some w ∧ decode w = .error e ∧
      t = recordError .illegal { s with pending := none }) := by
  unfold engineTurn at h
  split at h
  · cases h; exact .inl ⟨‹_›, rfl⟩
  · rename_i w hw
    unfold runWord at h
    split at h
    · exact .inr (.inl ⟨w, _, hw, ‹_›, h⟩)
    · cases h; exact .inr (.inr ⟨w, _, hw, ‹_›, rfl⟩)

/-- What a host access that answers can be: a read or a write of a register the checks admit. -/
theorem hostAccess_cases {a : Access} {s t : State} (h : hostAccess a s = .next t) :
    (∃ w p r, a = .read w p ∧ checkAccess w p = .ok r ∧ t = readRegister r s) ∨
    (∃ w p v r, a = .write w p v ∧ checkAccess w p = .ok r ∧ t = writeRegister r v s) := by
  unfold hostAccess at h
  split at h <;> split at h
  · cases h
  · cases h; exact .inl ⟨_, _, _, rfl, ‹_›, rfl⟩
  · cases h
  · cases h; exact .inr ⟨_, _, _, _, rfl, ‹_›, rfl⟩

/-- An admitted access is 32 bits wide, at an offset of the register map. -/
theorem checkAccess_ok {w : Width} {p : Place} {r : Reg} (h : checkAccess w p = .ok r) :
    w = .w32 ∧ ∃ off, p.resolve = .ok off ∧ regAt off = .ok r := by
  unfold checkAccess at h
  split at h
  · cases h
  · split at h
    · split at h
      · cases h
      · cases h; exact ⟨‹_›, _, ‹_›, ‹_›⟩
    · cases h

/-! ## DECSYM's walk -/

/-- However the walk ends, only the reader, and on success RESULT, has changed. -/
theorem decodeWalk_frame {fuel cur : Nat} {s : State} :
    (∀ t, decodeWalk fuel cur s = .done t →
      t = { s with rbyte := t.rbyte, rn := t.rn, inq := t.inq, result := t.result }) ∧
    (∀ e t, decodeWalk fuel cur s = .error e t →
      t = { s with rbyte := t.rbyte, rn := t.rn, inq := t.inq }) := by
  induction fuel generalizing cur s with
  | zero => simp [decodeWalk]
  | succ fuel ih =>
    unfold decodeWalk
    split
    · simp
    · constructor
      · intro t h; cases h
      · intro e t h; cases h; rfl
    · rename_i b u hu
      have hf := (readBit_bit hu).2
      split
      · constructor
        · intro t h; cases h
        · intro e t h; cases h; exact hf
      · split
        · obtain ⟨hd, he⟩ := @ih _ u
          constructor
          · intro t h; rw [hd t h, hf]
          · intro e t h; rw [he e t h, hf]
        · constructor
          · intro t h; cases h; rw [hf]
          · intro e t h; cases h

/-! ## The merge queue -/

/-- `extractMin` fails only on an empty queue. -/
theorem extractMin_eq_none {q : List QNode} : extractMin q = none ↔ q = [] := by
  cases q with
  | nil => simp [extractMin]
  | cons x xs =>
    unfold extractMin
    split
    · simp
    · split <;> simp

/-- `extractMin` answers a node of the queue and the queue without it. -/
theorem extractMin_perm {q rest : List QNode} {m : QNode} (h : extractMin q = some (m, rest)) :
    (m :: rest).Perm q := by
  induction q generalizing m rest with
  | nil => simp [extractMin] at h
  | cons x xs ih =>
    unfold extractMin at h
    split at h
    · rename_i hn
      cases h
      rw [extractMin_eq_none.mp hn]
    · rename_i m' rest' hs
      split at h
      · cases h; rfl
      · cases h
        exact (List.Perm.swap x m rest').trans ((ih hs).cons x)

end Sys2Proof.Machine
end

