-- ==== Sys2Proof/Tests/Slice0.lean ====
section
/-! SUPPORT. Tests of the model, with expected results from the spec (95_test_vectors.md unless a
comment says otherwise), and the witnesses: for each statement with hypotheses, states and operands that
meet them. -/

-- One theorem after another: a hundred at once would each keep a thread waiting for the kernel.
set_option Elab.async false

namespace Sys2Proof.Tests

open Sys2Proof Sys2Proof.Machine

/-! ## Small states -/

/-- A table from its first entries, the rest 0. -/
def tableOf {w : Nat} (l : List Nat) : Table w := Table.tabulate fun i => BitVec.ofNat w (l.getD i 0)

/-- An idle engine with zeroed tables. -/
def idle : State :=
  { State.reset with freq := tableOf [], len := tableOf [], code := tableOf [], tree := [] }

/-- The tables of V-C1 and V-T1: SIZE = 4, LEN = [1, 3, 3, 2], CODE = [0, 6, 7, 2], codes valid. -/
def coded : State :=
  { idle with
    size := 4, freq := tableOf [5, 1, 1, 2], len := tableOf [1, 3, 3, 2]
    code := tableOf [0, 6, 7, 2], codesValid := true }

/-- The state of V-T1 after BLDTREE. -/
def built : State := { coded with tree := buildDecodingTree coded.len coded.code 4, treeValid := true }

/-- The state of V-T6 before its DECSYM: the incomplete code [1, 0, 2], INQ = [0xB0], closed. -/
def incomplete : State :=
  { idle with
    size := 3, len := tableOf [1, 0, 2], code := tableOf [0, 0, 2], codesValid := true
    tree := buildDecodingTree (tableOf [1, 0, 2]) (tableOf [0, 0, 2]) 3, treeValid := true
    inq := [0xB0], inClosed := true }

/-- The state a command leaves, for tests. -/
def after (i : Instr) (s : State) : State :=
  match exec i s with
  | .next t => t
  | _ => s

/-- Every command answers, with the state `after` names. -/
theorem exec_eq_after (i : Instr) (s : State) : exec i s = .next (after i s) := by
  cases i <;> rfl

/-- A host write of a register, by its window offset. -/
def hostWrite (r : Reg) (v : Word) : Turn := .host (.write .w32 (.offset r.offset) v)

/-- A host read of a register, by its window offset. -/
def hostRead (r : Reg) : Turn := .host (.read .w32 (.offset r.offset))

/-- A state in which the host's next turn is `t`. -/
def about (t : Turn) (s : State) : State := { s with agenda := [t] }

/-! ## WellFormed: each check refuses an ill-formed term -/

theorem test_illFormed_frqinc : (Instr.frqinc 256).wellFormed = false := by decide
theorem test_illFormed_encsym : (Instr.encsym 256).wellFormed = false := by decide
theorem test_illFormed_wrbits : (Instr.wrbits 64).wellFormed = false := by decide
theorem test_wellFormed_edges : (Instr.frqinc 255).wellFormed = true ∧
    (Instr.encsym 255).wellFormed = true ∧ (Instr.wrbits 63).wellFormed = true := by decide

/-! ## Decoding: one word per constructor, written out from 30_encoding.md R94 -/

theorem test_decode_nop : decode 0b00000000000000000000000000000000#32 = .ok .nop := by decide
theorem test_decode_srst : decode 0b00000000000000000000000000000001#32 = .ok .srst := by decide
theorem test_decode_clrerr : decode 0b00000000000000000000000000000010#32 = .ok .clrerr := by decide
theorem test_decode_frqclr : decode 0b00000000000000000000000000001000#32 = .ok .frqclr := by decide
/-- R121: FRQINC 3 is the word 0x0000_0309. -/
theorem test_decode_frqinc :
    decode 0b00000000000000000000001100001001#32 = .ok (.frqinc 3) := by decide
theorem test_decode_bldlen : decode 0b00000000000000000000000000010000#32 = .ok .bldlen := by decide
theorem test_decode_bldcan : decode 0b00000000000000000000000000010001#32 = .ok .bldcan := by decide
theorem test_decode_bldtree : decode 0b00000000000000000000000000010010#32 = .ok .bldtree := by decide
/-- V-E2. -/
theorem test_decode_wrbits :
    decode 0b00000000000000000000110000100000#32 = .ok (.wrbits 12) := by decide
theorem test_decode_wrclose : decode 0b00000000000000000000000000100001#32 = .ok .wrclose := by decide
/-- V-E1. -/
theorem test_decode_encsym :
    decode 0b00000000000000000000001100100010#32 = .ok (.encsym 3) := by decide
theorem test_decode_rdbit : decode 0b00000000000000000000000000110000#32 = .ok .rdbit := by decide
theorem test_decode_decsym : decode 0b00000000000000000000000000110001#32 = .ok .decsym := by decide
theorem test_decode_rdreset : decode 0b00000000000000000000000000110010#32 = .ok .rdreset := by decide
/-- The table's bits reach the decoder, and the words above 32 bits do not matter. -/
theorem test_decodeTableWord : decodeTableWord 32 0x0000FF09 = some (.frqinc 255) ∧
    decodeTableWord 8 0x30 = some .rdbit ∧ decodeTableWord 32 0x00010000 = none := by decide
/-- The fetch of withFetchWord, at reset: DECSYM fails with E_NOT_READY (V-T3). -/
theorem test_withFetchWord : step (State.reset.withFetchWord 32 0x31) =
    .next (State.reset.failed 0x0A) := rfl

/-! ## One step per command -/

/-- V-K1. -/
theorem test_nop : after .nop { coded with pending := some 0 } = coded := rfl
/-- V-K2. -/
theorem test_srst :
    let t := after .srst { coded with wn := 3, wacc := 5, outq := [0x6F], inq := [0], data := 5 }
    t.size = 256 ∧ t.data = 0 ∧ t.wn = 0 ∧ t.outq = [] ∧ t.status = 0 ∧
    (List.range 4).map t.lenAt = [1, 3, 3, 2] := by decide +kernel
/-- V-K3. -/
theorem test_clrerr :
    ({ built with err := true, errcode := 0x0D, inClosed := true }.status = 0x00000D6A) ∧
    (after .clrerr { built with err := true, errcode := 0x0D, inClosed := true }).status
      = 0x00000068 := by decide +kernel
/-- V-F1, first half. -/
theorem test_frqclr : ((after .frqclr State.reset).freq.read 255) = 0 := by decide +kernel
/-- V-F5, and R121's frame for the entry below. -/
theorem test_frqinc :
    let t := after (.frqinc 3) coded
    t.freq.read 3 = 3 ∧ t.freq.read 2 = 1 ∧ t.err = false := by decide +kernel
/-- V-F2 and V-F3. -/
theorem test_frqinc_errors :
    (after (.frqinc 4) coded).errcode = 0x04 ∧
    (after (.frqinc 0) { coded with freq := tableOf [0xFFFFFFFF] }).errcode = 0x05 := by
  decide +kernel
/-- V-B3 and V-B2: FREQ = [5, 1, 1, 2] and [1, 1, 2, 2]. -/
theorem test_bldlen :
    ((List.range 4).map (after .bldlen coded).lenAt) = [1, 3, 3, 2] ∧
    ((List.range 4).map (after .bldlen { coded with freq := tableOf [1, 1, 2, 2] }).lenAt)
      = [2, 2, 2, 2] := by decide +kernel
/-- V-B5 and V-B8. -/
theorem test_bldlen_corners :
    ((List.range 3).map (after .bldlen { idle with size := 3, freq := tableOf [0, 7, 0] }).lenAt)
      = [0, 1, 0] ∧ (after .bldlen { idle with size := 3 }).errcode = 0x06 := by decide +kernel
/-- V-C5 and V-C9. -/
theorem test_bldcan :
    ((List.range 4).map (after .bldcan { idle with size := 4, len := tableOf [2, 1, 3, 3] }).codeAt)
      = [2, 0, 6, 7] ∧
    ((List.range 3).map (after .bldcan { idle with size := 3, len := tableOf [32, 32, 31] }).codeAt)
      = [2, 3, 0] := by decide +kernel
/-- V-C2 and V-C12. -/
theorem test_bldcan_errors :
    (after .bldcan { idle with size := 3, len := tableOf [1, 1, 1] }).errcode = 0x09 ∧
    (after .bldcan { idle with size := 3, len := tableOf [2, 40, 0] }).errcode = 0x08 := by
  decide +kernel
/-- V-T1: the leaves and the number of nodes. -/
theorem test_bldtree :
    let t := after .bldtree coded
    leafAt t.tree [false] = some 0 ∧ leafAt t.tree [true, true, false] = some 1 ∧
    leafAt t.tree [true, true, true] = some 2 ∧ leafAt t.tree [true, false] = some 3 ∧
    t.tree.length = 7 := by decide +kernel
/-- V-W6, up to OUT_DEPTH = 4: a word across byte boundaries. -/
theorem test_wrbits :
    let t := after (.wrbits 32) { idle with wn := 7, wacc := 0x7F, data := 0x12345678 }
    t.outq = [0xFE, 0x24, 0x68, 0xAC] ∧ t.wn = 7 ∧ t.wacc = 0b1111000 := by decide +kernel
/-- V-E4 and V-W3. -/
theorem test_wrbits_corners :
    (after (.wrbits 33) idle).errcode = 0x0C ∧
    (after (.wrbits 0) { idle with data := 0xFFFF }).wn = 0 := by decide +kernel
/-- V-W4 and V-W5. -/
theorem test_wrclose :
    (after .wrclose { idle with wacc := 0b101, wn := 3 }).outq = [0xA0] ∧
    (after .wrclose { idle with outq := [0xA0] }).outq = [0xA0] := by decide +kernel
/-- V-T8, and the last bits of P2: 0x6F after the codes of 0, 1, 2 and 3. -/
theorem test_encsym :
    ((after (.encsym 1) coded).wn = 3 ∧ (after (.encsym 1) coded).wacc = 0b110) ∧
    (after (.encsym 3) { coded with wn := 7, wacc := 0b0110111 }).outq = [0x6F] := by decide +kernel
/-- V-T4, V-T5 and V-X3. -/
theorem test_encsym_errors :
    (after (.encsym 4) coded).errcode = 0x04 ∧
    (after (.encsym 1) { coded with len := tableOf [1, 0] }).errcode = 0x0B ∧
    (after (.encsym 1) { coded with codesValid := false }).errcode = 0x0A := by decide +kernel
/-- V-R2 after the push, and the end-of-stream of V-R1. -/
theorem test_rdbit :
    ((after .rdbit { idle with inq := [0x80] }).result = 1 ∧
      (after .rdbit { idle with inq := [0x80] }).rn = 7) ∧
    (after .rdbit { idle with inClosed := true }).result = 0xFFFFFFFF ∧
    (after .rdbit { idle with inClosed := true }).status = 0x0000000C := by decide +kernel
/-- P3's fourth DECSYM (across a byte) and V-T10's hold. -/
theorem test_decsym :
    (let t := after .decsym { built with rbyte := 0x6F, rn := 1, inq := [0x00] }
     t.result = 3 ∧ t.rn = 7 ∧ t.inq = []) ∧
    (after .decsym { built with pending := some 0x31 }).status = 0x00000061 := by decide +kernel
/-- V-T6: the second DECSYM, and V-T9's last: E_EOS. -/
theorem test_decsym_errors :
    (after .decsym { incomplete with rbyte := 0xB0, rn := 6, inq := [], result := 2 }).status
      = 0x00400E6A ∧
    (after .decsym { built with inClosed := true }).status = 0x00000D6A := by decide +kernel
/-- V-R3. -/
theorem test_rdreset :
    let t := after .rdreset { idle with rbyte := 1, rn := 7, inq := [2], inClosed := true, eos := true }
    t.inq = [] ∧ t.rn = 0 ∧ t.status = 0 := by decide +kernel

/-! ## Host accesses -/

/-- V-M3 and V-M4: 0 and 257 are ignored, 0x201 sets SIZE = 1. -/
theorem test_ctrl_write : (writeRegister .ctrl 0 idle).size = 256 ∧
    (writeRegister .ctrl 257 idle).size = 256 ∧ (writeRegister .ctrl 0x201 idle).size = 1 := by
  decide +kernel
/-- V-M9. -/
theorem test_busFault :
    checkAccess .w16 (.offset 0x014) = .error (.busFault .width) ∧
    checkAccess .w32 (.offset 0x016) = .error (.busFault .misaligned) ∧
    checkAccess .w32 (.offset 0x02C) = .error (.busFault .unmapped) := by decide
/-- V-M13, and V-M6. -/
theorem test_len_write_and_push : (writeRegister (.len 7) 0x1234 idle).lenAt 7 = 0x34 ∧
    (writeRegister .inData 5 { idle with inClosed := true }).inDrop = true := by decide +kernel
/-- V-W8's pop, and V-M5. -/
theorem test_outData : outDataValue { idle with outq := [0xFF] } = 0x000001FF ∧
    outDataValue idle = 0 := by decide +kernel
/-- V-M10: E_CMD_BUSY is kept over E_WRITE_BUSY, and SIZE stays. -/
theorem test_busy_writes :
    let s := writeRegister .ctrl 3 (writeRegister .cmd 0 { idle with pending := some 0x31 })
    s.status = 0x00000203 ∧ s.size = 256 := by decide +kernel
/-- 30_encoding.md R98: `C ENCSYM 3` writes 0x0000_0322 and `C WRBITS 12` writes 0x0000_0C20. -/
theorem test_script_commands :
    assemble [.command (.encsym 3), .command (.wrbits 12)]
      = [writeOp .cmd 0x00000322, writeOp .cmd 0x00000C20] := by decide +kernel
/-- V-M11: `R LEN[0] -> v`, then `W LEN[0], v`. -/
theorem test_script_writes_a_name :
    (match (HostRun.start [.read (.len 0) (some "v"), .write (.len 0) (.name "v")] built).hostTurn with
      | .next h =>
        match h.hostTurn with
        | .next k => !k.machine.codesValid && !k.machine.treeValid && decide (k.machine.lenAt 0 = 1)
        | _ => false
      | _ => false) = true := by decide +kernel
/-- 10_state.md R36 and 20_memory.md R63: two bytes out and three in. -/
theorem test_fifoStat : { idle with outq := [1, 2], inq := [3, 4, 5] }.fifoStat = 0x00020003 ∧
    readValue .fifoStat { idle with outq := [1, 2], inq := [3, 4, 5] } = 0x00020003 := by
  decide +kernel
/-- 20_memory.md R63: 65536 bytes in and none out. -/
theorem test_fifoStat_read_long :
    readValue .fifoStat { idle with inq := List.replicate 65536 0 } = 0x00010000 := by
  rw [readValue, State.fifoStatRead, State.fifoCounts, List.length_replicate]
  decide +kernel

/-! ## States with the invariant, for the witnesses -/

/-- The codes of `built` and of `incomplete` are BLDCAN's, at every setting of the streams. -/
theorem built_codesMatch : built.codesMatch :=
  ⟨[(0, 0), (3, 2), (1, 6), (2, 7)], by decide +kernel, by decide +kernel⟩

theorem built_lens : ∀ i, i < built.size → built.lenAt i ≤ 32 := by decide +kernel

theorem built_tree : built.tree = buildDecodingTree built.len built.code built.size := rfl

theorem built_arena : built.tree.length ≤ Config.nodeCap := by decide +kernel

theorem incomplete_codesMatch : incomplete.codesMatch :=
  ⟨[(0, 0), (2, 2)], by decide +kernel, by decide +kernel⟩

/-- `built` with any agenda, pending word, DATA, error-free record and legal streams. -/
def builtWith (p : Option Word) (ag : List Turn) (d : Word) (acc : Byte) (n : Nat) (rb : Byte)
    (r : Nat) (iq oq : List Byte) (closed : Bool) : State :=
  { built with
    pending := p, agenda := ag, data := d, wacc := acc, wn := n, rbyte := rb, rn := r, inq := iq
    outq := oq, inClosed := closed }

theorem builtWith_inv {p : Option Word} {ag : List Turn} {d : Word} {acc : Byte} {n : Nat}
    {rb : Byte} {r : Nat} {iq oq : List Byte} {closed : Bool}
    (hw : n ≤ 7 ∧ acc.toNat < 2 ^ n) (hr : r ≤ 8)
    (hf : iq.length ≤ Config.inDepth ∧ oq.length ≤ Config.outDepth) :
    Inv (builtWith p ag d acc n rb r iq oq closed) where
  size_legal := (by decide : 1 ≤ 4 ∧ 4 ≤ 256)
  writer := hw
  reader := hr
  fifos := hf
  codes := fun _ => ⟨built_lens, built_codesMatch⟩
  tree_current := fun _ => ⟨rfl, built_tree⟩
  errors := (by decide : false = false ↔ (0#8) = 0)
  arena := built_arena
  code_assigned := (by decide : (0#8).toNat ≤ 14)

/-- `built` with a full OUTQ of any depth and six bits accumulated (V-T11). -/
def outFull : State :=
  builtWith none [] 0 0 6 0 0 [] (List.replicate Config.outDepth 0xFF) false

theorem outFull_inv : Inv outFull :=
  builtWith_inv (by decide) (by decide) ⟨Nat.zero_le _, by simp⟩

theorem incomplete_inv : Inv incomplete where
  size_legal := by decide
  writer := by decide
  reader := by decide
  fifos := by decide +kernel
  codes := fun _ => ⟨(by decide +kernel : ∀ i, i < 3 → incomplete.lenAt i ≤ 32), incomplete_codesMatch⟩
  tree_current := fun _ => ⟨rfl, rfl⟩
  errors := by decide
  arena := (by decide +kernel : incomplete.tree.length ≤ Config.nodeCap)
  code_assigned := by decide

/-- `built` with the streams empty and OUT_DEPTH or more places free. -/
def quiet : State := builtWith none [] 0 0 0 0 0 [] [] false

theorem quiet_inv : Inv quiet := builtWith_inv (by decide) (by decide) ⟨Nat.zero_le _, Nat.zero_le _⟩

/-! ## Witnesses: command words and steps -/

theorem witness_DecodeOfEncode :
    (Instr.encsym 255).wellFormed = true ∧ (Instr.wrbits 63).wellFormed = true ∧
    (Instr.frqinc 0).wellFormed = true := by decide

theorem witness_EncodeOfDecode : decode 0x00003F20 = .ok (.wrbits 63) := by decide

theorem witness_DecodeSelectsOneOpcodeRow :
    decode 0x0000FF22 = .ok (.encsym 255) ∧ decode 0x00004020 = .error .reservedCount := by decide

/-- The edges of R95's ranges, and of each other ground, are illegal; the words beside them are not. -/
theorem witness_IllegalWordsRaiseIllegal :
    ([0x03, 0x07, 0x0A, 0x0F, 0x13, 0x1F, 0x23, 0x2F, 0x33, 0xFF].all fun op =>
      decide (decode (commandWord op 0) = .error .unknownOpcode)) = true ∧
    decode 0x00010000 = .error .reservedField ∧ decode 0x00000132 = .error .operandGiven ∧
    decode 0x00004020 = .error .reservedCount ∧ decode 0x00003F20 = .ok (.wrbits 63) := by decide

/-- The engine's turn on an empty agenda, and at the head of one on which the host acts next. -/
theorem witness_IllegalWordsRaiseIllegal_step :
    let s : State := { idle with pending := some 0x00000003 }
    decode 0x00000003 = .error .unknownOpcode ∧ s.pending = some 0x00000003 ∧ s.engineHasTurn ∧
    { s with agenda := [.engine, hostRead .status] }.engineHasTurn :=
  ⟨by decide, rfl, .inl rfl, .inr ⟨_, rfl⟩⟩

theorem witness_StepRunsTheDecodedCommand :
    let s : State := { idle with pending := some 0x00000309, agenda := [.engine, .engine] }
    s.pending = some 0x00000309 ∧ decode 0x00000309 = .ok (.frqinc 3) ∧
    s.agenda = .engine :: [.engine] ∧ { s with agenda := [] }.agenda = [] ∧
    decode (tableWord 32 0x00000309) = .ok (.frqinc 3) :=
  ⟨rfl, by decide, rfl, rfl, by decide⟩

theorem witness_HostTurnIsOneAccess :
    (about (hostWrite .data 7) idle).agenda = hostWrite .data 7 :: [] ∧
    { idle with agenda := [.engine] }.agenda = .engine :: [] ∧ idle.pending = none ∧
    idle.agenda = [] := ⟨rfl, rfl, rfl, rfl⟩

/-- A step that faults: a 16-bit access. -/
theorem witness_EngineNeverRefuses :
    step (about (.host (.read .w16 (.offset 0))) idle) = .fault (.busFault .width) := rfl

/-- A held RDBIT. -/
theorem witness_HoldChangesNothing :
    let s : State := { idle with pending := some 0x30 }
    s.pending ≠ none ∧ exec .rdbit s = .next s := ⟨by decide, rfl⟩

/-! ## Witnesses: the invariant -/

/-- An engine step and a host step from states with the invariant. -/
theorem witness_StepKeepsInv :
    (Inv (builtWith (some 0x122) [] 0 0 0 0 0 [] [] false) ∧
      ∃ t, step (builtWith (some 0x122) [] 0 0 0 0 0 [] [] false) = .next t) ∧
    (Inv (builtWith none [hostWrite (.len 0) 9] 0 0 0 0 0 [] [] false) ∧
      ∃ t, step (builtWith none [hostWrite (.len 0) 9] 0 0 0 0 0 [] [] false) = .next t) :=
  ⟨⟨builtWith_inv (by decide) (by decide) ⟨Nat.zero_le _, Nat.zero_le _⟩, _, rfl⟩,
   ⟨builtWith_inv (by decide) (by decide) ⟨Nat.zero_le _, Nat.zero_le _⟩, _, rfl⟩⟩

theorem witness_ReachableStatesSatisfyInv :
    ∃ t, runFromReset [hostWrite .cmd 0x08, .engine] 2 = .next t := ⟨_, rfl⟩

/-! ## Witnesses: control commands -/

theorem witness_NopRule :
    let s : State := about (hostWrite .cmd 0) { idle with err := true, errcode := 0x0D }
    s.busy = false ∧ s.err = true ∧ s.hostWrites .cmd 0 ∧
    opField 0x00000100 = 0 ∧ aField 0x00000100 ≠ 0 ∧ opField 0x00010000 = 0 ∧
    zField 0x00010000 ≠ 0 :=
  ⟨rfl, rfl, ⟨_, _, rfl, rfl⟩, by decide, by decide, by decide, by decide⟩

theorem witness_SrstRule :
    let s : State := about (hostWrite .cmd 1) { idle with err := true, errcode := 0x0D }
    s.busy = false ∧ s.hostWrites .cmd 1 ∧
    { s with pending := some 0x31 }.busy = true ∧
    { s with pending := some 0x31 }.hostWrites .cmd 1 :=
  ⟨rfl, ⟨_, _, rfl, rfl⟩, rfl, ⟨_, _, rfl, rfl⟩⟩

theorem witness_ClrerrRule :
    let s : State := about (hostWrite .cmd 2) { idle with err := true, errcode := 0x0D }
    s.busy = false ∧ s.hostWrites .cmd 2 := ⟨rfl, ⟨_, _, rfl, rfl⟩⟩

/-! ## Witnesses: the frequency table and the code builder -/

/-- The three clauses, at SYM = SIZE, at the greatest count, and at SYM = SIZE - 1. -/
theorem witness_FrqincRule :
    coded.size ≤ 256 ∧ coded.size ≤ 4 ∧ 3 < coded.size ∧ coded.freq.read 3 ≠ 0xFFFFFFFF ∧
    (tableOf [0xFFFFFFFF] : Table 32).read 0 = 0xFFFFFFFF := by decide +kernel

/-- A queue with a tie; and four counted symbols with other lengths of Kraft sum 1 and at both bounds. -/
theorem witness_ExtractMinTakesTheOldestLightest :
    extractMin [QNode.mk (.leaf 0) 2 0, QNode.mk (.leaf 1) 1 1, QNode.mk (.leaf 2) 1 2]
      = some (QNode.mk (.leaf 1) 1 1, [QNode.mk (.leaf 0) 2 0, QNode.mk (.leaf 2) 1 2]) ∧
    coded.size ≤ 256 ∧ coded.countedSymbols ≠ [] ∧
    (coded.countedSymbols.map fun i => 2 ^ (3 - [3, 3, 2, 1].getD i 0)).sum ≤ 2 ^ 3 ∧
    ∀ i, i ∈ coded.countedSymbols → 1 ≤ [3, 3, 2, 1].getD i 0 ∧ [3, 3, 2, 1].getD i 0 ≤ 3 := by
  decide +kernel

theorem witness_BldlenCompletesWhenCounted :
    coded.size ≤ 256 ∧ coded.countedSymbols ≠ [] ∧
    { idle with size := 3 }.size ≤ 256 ∧ { idle with size := 3 }.countedSymbols = [] := by
  decide +kernel

theorem witness_BldlenSingleSymbol :
    let s : State := { idle with size := 3, freq := tableOf [0, 7, 0] }
    s.size ≤ 256 ∧ s.countedSymbols = [1] := by decide +kernel

theorem witness_BldlenLengthsHaveKraftSumOne :
    coded.size ≤ 256 ∧ 2 ≤ coded.countedSymbols.length ∧
    { idle with size := 1, freq := tableOf [16] }.countedSymbols.length = 1 := by decide +kernel

/-- A complete set of lengths, with one length of 32 in another. -/
theorem witness_BldcanAssignsCanonicalCodes :
    coded.size ≤ 256 ∧ (∀ i, i < coded.size → coded.lenAt i ≤ 32) ∧
    coded.kraft 32 (List.range coded.size) ≤ 2 ^ 32 ∧
    { idle with size := 3, len := tableOf [32, 32, 31] }.kraft 32 (List.range 3) ≤ 2 ^ 32 := by
  decide +kernel

/-- V-C7 and V-C2. -/
theorem witness_BldcanRefusesBadLengths :
    (∃ i, i < 1 ∧ 32 < { idle with size := 1, len := tableOf [33] }.lenAt i) ∧
    (∀ i, i < 3 → { idle with size := 3, len := tableOf [1, 1, 1] }.lenAt i ≤ 32) ∧
    2 ^ 32 < { idle with size := 3, len := tableOf [1, 1, 1] }.kraft 32 (List.range 3) :=
  ⟨⟨0, by decide, by decide +kernel⟩, by decide +kernel, by decide +kernel⟩

theorem witness_BldcanAcceptsBldlenLengths :
    coded.size ≤ 256 ∧ coded.countedSymbols ≠ [] ∧ exec .bldlen coded = .next (after .bldlen coded) ∧
    ∀ i, i < (after .bldlen coded).size → (after .bldlen coded).lenAt i ≤ 32 :=
  ⟨by decide, by decide +kernel, exec_eq_after _ _, by decide +kernel⟩

/-- The first 34 Fibonacci numbers (V-B9), on which BLDLEN gives a length above 32. -/
def fibonacci : State :=
  { idle with
    size := 34
    freq := tableOf ((List.range 34).map fun n =>
      ((List.range n).foldl (fun p _ => (p.2, p.1 + p.2)) (1, 1)).1) }

/-- V-B9: BLDLEN gives a length above 32. -/
theorem witness_BldcanAcceptsBldlenLengths_long :
    fibonacci.size ≤ 256 ∧ fibonacci.countedSymbols ≠ [] ∧
    exec .bldlen fibonacci = .next (after .bldlen fibonacci) ∧
    ∃ i, i < (after .bldlen fibonacci).size ∧ 32 < (after .bldlen fibonacci).lenAt i :=
  ⟨by decide, by decide +kernel, exec_eq_after _ _, 0, by decide +kernel, by decide +kernel⟩

/-- Two states that agree on LEN below SIZE and differ elsewhere. -/
theorem witness_CanonicalCodesDependOnlyOnLengths :
    let s' : State := { coded with len := tableOf [1, 3, 3, 2, 9], freq := tableOf [] }
    coded.size = s'.size ∧ (∀ i, i < coded.size → coded.len.read i = s'.len.read i) ∧
    ∃ t, bldcan coded = .done t :=
  ⟨rfl, by decide +kernel, _, rfl⟩

/-! ## Witnesses: the decode tree, encoding and decoding -/

theorem witness_NotReadyFailures :
    idle.codesValid = false ∧ 255 < idle.size ∧ idle.treeValid = false := by decide

theorem witness_BldtreeBuildsExactlyTheCodes : Inv quiet ∧ quiet.codesValid = true :=
  ⟨quiet_inv, rfl⟩

theorem witness_CodesArePrefixFree :
    Inv quiet ∧ quiet.codesValid = true ∧ quiet.coded 0 ∧ quiet.coded 3 ∧ 0 ≠ 3 :=
  ⟨quiet_inv, rfl, ⟨by decide, by decide +kernel⟩, ⟨by decide, by decide +kernel⟩, by decide⟩

/-- The reset state, as a state with the invariant and without valid codes. -/
theorem reset_inv_witness : Inv { State.reset with agenda := [] } where
  size_legal := by decide
  writer := by decide
  reader := by decide
  fifos := ⟨Nat.zero_le _, Nat.zero_le _⟩
  codes := fun h => nomatch h
  tree_current := fun h => nomatch h
  errors := by decide
  arena := by simp [State.reset]
  code_assigned := by decide

/-- The error clauses: SYM = SIZE, no valid codes, and a symbol of length 0. -/
theorem witness_EncsymRule_errors :
    Inv quiet ∧ quiet.size ≤ 4 ∧ Inv { State.reset with agenda := [] } ∧
    255 < State.reset.size ∧ State.reset.codesValid = false ∧
    Inv incomplete ∧ 1 < incomplete.size ∧ incomplete.codesValid = true ∧ incomplete.lenAt 1 = 0 :=
  ⟨quiet_inv, by decide,
   reset_inv_witness,
   by decide, rfl, incomplete_inv, by decide, rfl, by decide +kernel⟩

/-- Completion with WN = 7, and the hold of V-T11. -/
theorem witness_EncsymRule :
    let s := builtWith none [] 0 0x7F 7 0 0 [] [] false
    (Inv s ∧ s.codesValid = true ∧ s.coded 1 ∧ s.roomFor (s.lenAt 1)) ∧
    Inv outFull ∧ outFull.codesValid = true ∧ outFull.coded 1 ∧ ¬ outFull.roomFor (outFull.lenAt 1) := by
  have h1 : (builtWith none [] 0 0x7F 7 0 0 [] [] false).lenAt 1 = 3 := by decide +kernel
  have h2 : outFull.lenAt 1 = 3 := (by decide +kernel : built.lenAt 1 = 3)
  refine ⟨⟨builtWith_inv (by decide) (by decide) ⟨Nat.zero_le _, Nat.zero_le _⟩, rfl,
    ⟨by decide, by rw [h1]; decide⟩, ?_⟩, outFull_inv, rfl, ⟨(by decide : 1 < 4), by rw [h2]; decide⟩, ?_⟩
  · rw [h1]
    simp [State.roomFor, builtWith, Config.outDepth]
  · rw [h2]
    simp [State.roomFor, outFull, builtWith]

/-- P3's second symbol: the unread bits 110 1111 0000 0000 begin with the code 110 of symbol 1. -/
theorem witness_DecsymReturnsTheSymbol :
    let s := builtWith none [] 0 0 0 0x6F 7 [0x00] [] true
    Inv s ∧ s.treeValid = true ∧ s.coded 1 ∧
    s.unreadBits = s.codeBits 1 ++ [true, true, true, true, false, false, false, false, false, false,
      false, false] :=
  ⟨builtWith_inv (by decide) (by decide) ⟨Nat.le_add_left 1 (Config.inDepthOverFour + 3),
      Nat.zero_le _⟩, rfl, ⟨by decide, by decide +kernel⟩, by decide +kernel⟩

/-- The bits 11 stop inside two codes; and no bit at all. -/
theorem witness_DecsymAtTheEndOfInput :
    let s := builtWith none [] 0 0 0 0x03 2 [] [] true
    Inv s ∧ s.treeValid = true ∧ s.insideCode s.unreadBits ∧ s.inClosed = true ∧
    Inv quiet ∧ quiet.treeValid = true ∧ quiet.insideCode quiet.unreadBits ∧ quiet.inClosed = false :=
  ⟨builtWith_inv (by decide) (by decide) ⟨Nat.zero_le _, Nat.zero_le _⟩, rfl,
   .inr ⟨1, ⟨by decide, by decide +kernel⟩, by decide +kernel, by decide +kernel⟩, rfl,
   quiet_inv, rfl, .inl rfl, rfl⟩

/-- The second DECSYM of V-T6: the path 1, then 1 again, which no code of [1, 0, 2] has. -/
theorem witness_DecsymOnAnInvalidCode :
    let s : State := { incomplete with rbyte := 0xB0, rn := 6, inq := [] }
    Inv s ∧ s.treeValid = true ∧
    s.unreadBits = [true] ++ true :: [false, false, false, false] ∧ s.insideCode [true] ∧
    ∀ sym, s.coded sym → ¬ [true] ++ [true] <+: s.codeBits sym := by
  refine ⟨?_, rfl, by decide +kernel,
    .inr ⟨2, ⟨by decide, by decide +kernel⟩, by decide +kernel, by decide +kernel⟩, ?_⟩
  · exact { incomplete_inv with reader := by decide, fifos := ⟨Nat.zero_le _, Nat.zero_le _⟩ }
  · rintro sym ⟨hs, -⟩
    exact (by decide +kernel : ∀ sym, sym < 3 →
      ¬ [true] ++ [true] <+: ({ incomplete with rbyte := 0xB0, rn := 6, inq := [] } : State).codeBits sym)
      sym hs

/-- P2: five ENCSYM and a WRCLOSE leave 0x6F, 0x00. -/
theorem test_encodeAll :
    ((encodeAll [0, 1, 2, 3, 0] quiet).bind closeWriter).map State.outq = some [0x6F, 0x00] := by
  decide +kernel

/-- P2 and P3: 0, 1, 2, 3, 0 into 0x6F, 0x00 and back. -/
theorem witness_HuffmanRoundTrip :
    let d := builtWith none [] 0 0 0 0 0 [0x6F, 0x00] [] true
    Inv quiet ∧ Inv d ∧ quiet.codesValid = true ∧ d.treeValid = true ∧ quiet.size = d.size ∧
    (∀ i, i < quiet.size → quiet.len.read i = d.len.read i) ∧
    (∀ sym, sym ∈ [0, 1, 2, 3, 0] → quiet.coded sym) ∧ quiet.wn = 0 ∧ quiet.outq = [] ∧
    ∃ e' c, encodeAll [0, 1, 2, 3, 0] quiet = some e' ∧ closeWriter e' = some c ∧ d.rn = 0 ∧
      d.inq = c.outq := by
  have hsym : ∀ sym, sym ∈ [0, 1, 2, 3, 0] → sym < 4 ∧ quiet.lenAt sym ≠ 0 := by decide +kernel
  obtain ⟨c, hc, hq⟩ := Option.map_eq_some_iff.mp test_encodeAll
  obtain ⟨e', he, hw⟩ := Option.bind_eq_some_iff.mp hc
  exact ⟨quiet_inv, builtWith_inv (by decide) (by decide)
      ⟨Nat.le_add_left 2 (Config.inDepthOverFour + 2), Nat.zero_le _⟩,
    rfl, rfl, rfl, fun _ _ => rfl, hsym, rfl, rfl, e', c, he, hw, rfl, hq.symm⟩

/-- The turns of an encoder that is drained before its last symbol. -/
def drainedEncoder : List EncodeTurn :=
  [.encode 0, .encode 1, .encode 2, .encode 3, .pop, .encode 0]

/-- The turns of a decoder that is fed byte by byte; its first DECSYM holds. -/
def fedDecoder : List DecodeTurn := [.decode, .push 0x6F, .decode, .push 0x00, .decode, .close]

/-- P2's stream, its first byte popped before the last ENCSYM. -/
theorem test_encodeRun :
    (encodeRun drainedEncoder quiet).bind (fun r =>
      (closeWriter r.2.2).map fun c => (r.1, r.2.1, c.outq)) = some ([0, 1, 2, 3, 0], [0x6F], [0x00]) := by
  decide +kernel

/-- P3's first two symbols, with a push between them. -/
theorem test_decodeRun :
    (decodeRun fedDecoder quiet).map Prod.fst = some [0, 1] ∧
    pushedBytes fedDecoder = [0x6F, 0x00] := by decide +kernel

/-- The second clause, part of the way through P2 and P3. -/
theorem witness_HuffmanRoundTrip_long :
    Inv quiet ∧ quiet.codesValid = true ∧ quiet.treeValid = true ∧ quiet.wn = 0 ∧ quiet.outq = [] ∧
    quiet.rn = 0 ∧
    ∃ syms popped e' c values d', encodeRun drainedEncoder quiet = some (syms, popped, e') ∧
      closeWriter e' = some c ∧ decodeRun fedDecoder quiet = some (values, d') ∧
      quiet.inq ++ pushedBytes fedDecoder = popped ++ c.outq ∧ values.length ≤ syms.length ∧
      syms[values.length]? = some 2 := by
  obtain ⟨⟨syms, popped, e'⟩, he, hr⟩ := Option.bind_eq_some_iff.mp test_encodeRun
  obtain ⟨c, hc, hq⟩ := Option.map_eq_some_iff.mp hr
  obtain ⟨⟨values, d'⟩, hd, hv⟩ := Option.map_eq_some_iff.mp test_decodeRun.1
  simp only [Prod.mk.injEq] at hq hv
  obtain ⟨rfl, rfl, hq⟩ := hq
  subst hv
  exact ⟨quiet_inv, rfl, rfl, rfl, rfl, rfl, _, _, e', c, _, d', he, hc, hd,
    by rw [hq]; rfl, by decide, rfl⟩

/-! ## Witnesses: the raw bit stream -/

/-- The error at N = 33; completion at N = 32 with WN = 7; the hold of V-W8's kind, at N = 2. -/
theorem witness_WrbitsRule :
    let s := builtWith none [] 0x12345678 0x7F 7 0 0 [] [] false
    Inv s ∧ s.roomFor 32 ∧ s.roomFor 0 ∧ Inv outFull ∧ ¬ outFull.roomFor 2 := by
  refine ⟨builtWith_inv (by decide) (by decide) ⟨Nat.zero_le _, Nat.zero_le _⟩, ?_, ?_, outFull_inv, ?_⟩
  · simp [State.roomFor, builtWith, Config.outDepth]
  · simp [State.roomFor, builtWith]
  · simp [State.roomFor, outFull, builtWith]

theorem witness_WrcloseRule :
    let s := builtWith none [] 0 0b101 3 0 0 [] [] false
    (Inv quiet ∧ quiet.wn = 0) ∧
    (Inv outFull ∧ 0 < outFull.wn ∧ outFull.outq.length = Config.outDepth) ∧
    Inv s ∧ 0 < s.wn ∧ s.outq.length ≠ Config.outDepth :=
  ⟨⟨quiet_inv, rfl⟩, ⟨outFull_inv, by decide, by simp [outFull, builtWith]⟩,
   builtWith_inv (by decide) (by decide) ⟨Nat.zero_le _, Nat.zero_le _⟩, by decide,
   by simp [builtWith, Config.outDepth]⟩

theorem witness_RdbitRule :
    { idle with inq := [0x80] }.unreadBits
      = true :: [false, false, false, false, false, false, false] ∧
    { idle with rbyte := 1, rn := 1 }.unreadBits = true :: [] ∧
    { idle with inClosed := true }.unreadBits = [] ∧ { idle with inClosed := true }.inClosed = true ∧
    idle.unreadBits = [] ∧ idle.inClosed = false := by decide +kernel

theorem witness_WriterAndReaderAreIndependent :
    exec (.wrbits 3) idle = .next (after (.wrbits 3) idle) ∧
    exec .rdbit { idle with inq := [0x80] } = .next (after .rdbit { idle with inq := [0x80] }) :=
  ⟨rfl, rfl⟩

/-- An empty OUTQ, four bytes in INQ, and a closed input. -/
theorem witness_HoldsCanBeLifted :
    let s := builtWith none [] 0 0 0 0 0 [1, 2, 3, 4] [] false
    Inv s ∧ s.outq = [] ∧ 4 ≤ s.inq.length ∧
    Inv (builtWith none [] 0 0 0 0 0 [] [] true) ∧
    (builtWith none [] 0 0 0 0 0 [] [] true).inClosed = true :=
  ⟨builtWith_inv (by decide) (by decide) ⟨Nat.le_add_left 4 Config.inDepthOverFour, Nat.zero_le _⟩,
   rfl, by decide, builtWith_inv (by decide) (by decide) ⟨Nat.zero_le _, Nat.zero_le _⟩, rfl⟩

/-! ## Witnesses: the register window -/

/-- A held ENCSYM in front of a full OUTQ, and a held DECSYM with three bytes to push. -/
theorem witness_HoldsCanBeLifted_run :
    let s := builtWith (some 0x00000122) [] 0 0 6 0 0 [] (List.replicate Config.outDepth 0xFF) false
    let d := builtWith (some 0x31) [] 0 0 0 0 0 [1] [] false
    Inv s ∧ s.pending = some 0x00000122 ∧ decode 0x00000122 = .ok (.encsym 1) ∧
    Inv d ∧ d.pending = some 0x31 ∧ decode 0x31 = .ok .decsym ∧ d.inClosed = false ∧
    d.inq.length + [2, 3, (4 : Word)].length = 4 :=
  ⟨builtWith_inv (by decide) (by decide) ⟨Nat.zero_le _, by simp⟩, rfl, by decide,
   builtWith_inv (by decide) (by decide) ⟨Nat.le_add_left 1 (Config.inDepthOverFour + 3), Nat.zero_le _⟩,
   rfl, by decide, rfl, rfl⟩

theorem witness_RegisterMapRoundTrip :
    regAt 0x000 = .ok .id ∧ regAt 0x028 = .ok .fifoStat ∧ regAt 0x400 = .ok (.freq 0) ∧
    regAt 0x7FC = .ok (.freq 255) ∧ regAt 0xFFC = .ok (.code 255) := by decide

/-- The edges 0x028, 0x02C, 0x3FC and 0x400, a misaligned offset, and the widths. -/
theorem witness_BusFaultsExactlyWhereListed :
    (0x028#12).toNat % 4 = 0 ∧ ¬ (0x02C ≤ (0x028#12).toNat ∧ (0x028#12).toNat ≤ 0x3FF) ∧
    (0x02C ≤ (0x02C#12).toNat ∧ (0x02C#12).toNat ≤ 0x3FF) ∧
    (0x02C ≤ (0x3FC#12).toNat ∧ (0x3FC#12).toNat ≤ 0x3FF) ∧
    (0x400#12).toNat % 4 = 0 ∧ ¬ (0x02C ≤ (0x400#12).toNat ∧ (0x400#12).toNat ≤ 0x3FF) ∧
    (0x016#12).toNat % 4 ≠ 0 ∧ Width.w8 ≠ .w32 ∧ Width.w64 ≠ .w32 := by decide

theorem witness_BusAddressesAreBasePlusOffset :
    Config.base + 0xFFF < Config.base + 0x1000 ∧ (0 < Config.base → Config.base - 1 < Config.base) :=
  ⟨by omega, fun h => by omega⟩

theorem witness_StatusLayout :
    coded.wn ≤ 7 ∧ coded.rn ≤ 8 ∧ { idle with wn := 7 }.wn ≤ 7 ∧ { idle with rn := 8 }.rn ≤ 8 ∧
    (about (hostWrite .status 5) idle).hostWrites .status 5 ∧
    (about (hostRead .status) idle).agenda = .host (.read .w32 (.offset 0x00C)) :: [] ∧
    checkAccess .w32 (.offset 0x00C) = .ok .status ∧
    ∃ t, step (about (hostRead .status) idle) = .next t :=
  ⟨by decide, by decide, by decide, by decide, ⟨_, _, rfl, rfl⟩, rfl, rfl, _, rfl⟩

/-- The greatest count a field shows, R63's number with 65536 bytes in, a number that does not fit, short
FIFOs, and SIZE at both ends. -/
theorem witness_FifoStatAndCtrlLayout :
    (List.replicate 65535 (0 : Byte)).length < 65536 ∧
    ({ idle with inq := List.replicate 65536 0 }.outq.length <<< 16) |||
      { idle with inq := List.replicate 65536 0 }.inq.length < 2 ^ 32 ∧
    2 ^ 32 ≤ ({ idle with outq := List.replicate 65536 0 }.outq.length <<< 16) |||
      { idle with outq := List.replicate 65536 0 }.inq.length ∧
    { idle with outq := [1, 2] }.outq.length < 65536 ∧
    { idle with outq := [1, 2] }.inq.length < 65536 ∧
    idle.size ≤ 256 ∧ { idle with size := 1 }.size ≤ 256 := by
  refine ⟨by rw [List.length_replicate]; decide, ?_, ?_, by decide, by decide, by decide, by decide⟩
  all_goals rw [List.length_replicate]
  all_goals decide

theorem witness_ReadsReturnTheRegister :
    (about (hostRead (.len 3)) coded).agenda = .host (.read .w32 (.offset (Reg.len 3).offset)) :: [] ∧
    (2#32).toNat = coded.lenAt 3 ∧
    (about (hostRead .status) coded).agenda = .host (.read .w32 (.offset Reg.status.offset)) :: [] ∧
    (let s := about (hostRead .fifoStat) { idle with outq := [1, 2], inq := [3, 4, 5] }
     s.agenda = .host (.read .w32 (.offset Reg.fifoStat.offset)) :: [] ∧
      (s.outq.length <<< 16) ||| s.inq.length < 2 ^ 32 ∧
      (0x00020003#32).toNat = (s.outq.length <<< 16) ||| s.inq.length) :=
  ⟨rfl, by decide +kernel, rfl, rfl, by decide, by decide⟩

theorem witness_OutDataPops :
    (about (hostRead .outData) idle).agenda = .host (.read .w32 (.offset 0x024)) :: [] ∧
    idle.outq = [] ∧ { idle with outq := [0xFF, 1] }.outq = 0xFF :: [1] ∧
    (about (hostRead .data) idle).hostReads .data ∧ Reg.data ≠ .outData ∧
    ∃ t, step (about (hostRead .data) idle) = .next t :=
  ⟨rfl, rfl, rfl, ⟨_, _, rfl, rfl⟩, by decide, _, rfl⟩

/-- The illegal word; and the three clauses of a write: busy; an error recorded; accepted. -/
theorem witness_CmdWriteRule :
    (decode 0xFF = .error .unknownOpcode ∧ { idle with pending := some 0xFF }.pending = some 0xFF ∧
      { idle with pending := some 0xFF, agenda := [.engine] }.engineHasTurn) ∧
    (about (hostWrite .cmd 0x31) idle).hostWrites .cmd 0x31 ∧
    { idle with pending := some 0x31 }.busy = true ∧ idle.busy = false ∧ idle.err = false ∧
    { idle with err := true, errcode := 0x0D }.err = true ∧
    (0x31 : Word) ≠ 0x00000001 ∧ (0x31 : Word) ≠ 0x00000002 ∧
    (about (hostWrite .cmd 1) idle).hostWrites .cmd 1 :=
  ⟨⟨by decide, rfl, .inr ⟨_, rfl⟩⟩, ⟨_, _, rfl, rfl⟩, rfl, rfl, rfl, rfl, by decide, by decide,
   ⟨_, _, rfl, rfl⟩⟩

theorem witness_BusyWritesAreDropped :
    (about (hostWrite (.freq 255) 1) { idle with pending := some 0x31 }).hostWrites (.freq 255) 1 ∧
    (about (hostWrite .ctrl 3) { idle with pending := some 0x31 }).hostWrites .ctrl 3 ∧
    (about (hostWrite .ctrl 3) { idle with pending := some 0x31 }).busy = true :=
  ⟨⟨_, _, rfl, rfl⟩, ⟨_, _, rfl, rfl⟩, rfl⟩

/-- SIZE at 1, 256, 0 and 257, and the other three registers. -/
theorem witness_IdleWritesTakeEffect :
    idle.busy = false ∧ (about (hostWrite .data 5) idle).hostWrites .data 5 ∧
    (about (hostWrite (.freq 0) 5) idle).hostWrites (.freq 0) 5 ∧
    (about (hostWrite (.len 255) 5) idle).hostWrites (.len 255) 5 ∧
    (about (hostWrite .ctrl 0x201) idle).hostWrites .ctrl 0x201 ∧
    ((0x201#32).extractLsb' 0 9).toNat = 1 ∧ ((0x100#32).extractLsb' 0 9).toNat = 256 ∧
    ((0x200#32).extractLsb' 0 9).toNat = 0 ∧ ((0x101#32).extractLsb' 0 9).toNat = 257 :=
  ⟨rfl, ⟨_, _, rfl, rfl⟩, ⟨_, _, rfl, rfl⟩, ⟨_, _, rfl, rfl⟩, ⟨_, _, rfl, rfl⟩, by decide, by decide,
   by decide, by decide⟩

theorem witness_ReadOnlyWritesAreIgnored :
    (about (hostWrite (.code 0) 5) idle).hostWrites (.code 0) 5 ∧
    (about (hostWrite .id 5) idle).hostWrites .id 5 := ⟨⟨_, _, rfl, rfl⟩, ⟨_, _, rfl, rfl⟩⟩

/-- Open with room, closed, and full. -/
theorem witness_InDataWriteRule :
    (about (hostWrite .inData 5) idle).hostWrites .inData 5 ∧ idle.inClosed = false ∧
    idle.inq.length ≠ Config.inDepth ∧ { idle with inClosed := true }.inClosed = true ∧
    { idle with inq := List.replicate Config.inDepth 9 }.inq.length = Config.inDepth :=
  ⟨⟨_, _, rfl, rfl⟩, rfl, by simp [idle, State.reset, Config.inDepth], rfl, by simp⟩

theorem witness_InCtrlWriteRule :
    (about (hostWrite .inCtrl 1) idle).hostWrites .inCtrl 1 ∧ (1#32).getLsbD 0 = true ∧
    (2#32).getLsbD 0 = false ∧
    (let s : State := { idle with inClosed := true, pending := some 0x32 }
     ∃ t, step s = .next t ∧ s.inClosed = true ∧ t.inClosed = false) :=
  ⟨⟨_, _, rfl, rfl⟩, by decide, by decide, _, rfl, rfl, rfl⟩

/-! ## Witnesses: who may change what -/

/-- BLDCAN raises CODES_VALID, BLDTREE raises TREE_VALID, and a LEN write lowers both. -/
theorem witness_ValidBitsChangeOnlyBy :
    (let s : State := { coded with codesValid := false, pending := some 0x11 }
     ∃ t, step s = .next t ∧ s.codesValid = false ∧ t.codesValid = true) ∧
    (let s : State := { coded with pending := some 0x12 }
     ∃ t, step s = .next t ∧ s.treeValid = false ∧ t.treeValid = true) ∧
    (let s := about (hostWrite (.len 0) 1) built
     ∃ t, step s = .next t ∧ s.codesValid = true ∧ t.codesValid = false ∧ s.treeValid = true ∧
       t.treeValid = false) :=
  ⟨⟨_, rfl, rfl, by decide +kernel⟩, ⟨_, rfl, rfl, by decide +kernel⟩, ⟨_, rfl, rfl, rfl, rfl, rfl⟩⟩

/-- FRQCLR, BLDLEN, BLDCAN and BLDTREE each change their table. -/
theorem witness_TablesChangeOnlyBy :
    (after .frqclr coded).freq ≠ coded.freq ∧
    (after .bldlen { coded with freq := tableOf [1, 1, 2, 2] }).len ≠ coded.len ∧
    (after .bldcan { coded with code := tableOf [] }).code ≠ tableOf [] ∧
    (after .bldtree coded).tree ≠ coded.tree ∧
    ∃ t, step { coded with pending := some 0x08 } = .next t := by
  refine ⟨?_, ?_, ?_, by decide +kernel, _, rfl⟩ <;> intro h
  · exact absurd (congrArg (fun t : Table 32 => t.read 0) h) (by decide +kernel)
  · exact absurd (congrArg (fun t : Table 8 => t.read 0) h) (by decide +kernel)
  · exact absurd (congrArg (fun t : Table 32 => t.read 1) h) (by decide +kernel)

/-- A CMD write fills PENDING; a DATA write, a CTRL write and RDBIT change their registers. -/
theorem witness_RegistersChangeOnlyBy :
    (∃ t, step (about (hostWrite .cmd 0x31) idle) = .next t ∧ t.pending ≠ none) ∧
    (∃ t, step (about (hostWrite .data 5) idle) = .next t ∧ t.data ≠ 0) ∧
    (∃ t, step (about (hostWrite .ctrl 5) idle) = .next t ∧ t.size ≠ 256) ∧
    (∃ t, step { idle with pending := some 0x30, inq := [0x80] } = .next t ∧ t.result ≠ 0 ∧
      t.pending ≠ some 0x30) :=
  ⟨⟨_, rfl, by decide⟩, ⟨_, rfl, by decide⟩, ⟨_, rfl, by decide⟩, ⟨_, rfl, by decide, by decide⟩⟩

theorem witness_ErrorRecordIsSticky :
    let s : State := about (hostWrite .data 5) { idle with err := true, errcode := 0x0D }
    s.err = true ∧ ∃ t, step s = .next t := ⟨rfl, _, rfl⟩

theorem witness_StreamFlagsChangeOnlyBy :
    (∃ t, step { idle with pending := some 0x30, inClosed := true } = .next t ∧ t.eos ≠ false) ∧
    (∃ t, step (about (hostWrite .inData 5) { idle with inClosed := true }) = .next t ∧
      t.inDrop = true) ∧
    (∃ t, step { idle with pending := some 2, inDrop := true } = .next t ∧ t.inDrop = false) ∧
    ∃ t, step (about (hostWrite .inCtrl 1) idle) = .next t ∧ t.inClosed = true :=
  ⟨⟨_, rfl, by decide⟩, ⟨_, rfl, rfl⟩, ⟨_, rfl, rfl⟩, ⟨_, rfl, rfl⟩⟩

/-! ## Witnesses: host programs -/

/-- The write, the read, the branch and the end of `CLOSE`, `WAIT`; and a program that CHECK stopped. -/
theorem witness_HostProgramTurnIsOneAccess :
    let h := HostRun.start [.close, .wait] idle
    h.failed = false ∧ h.program[h.here]? = some (.write .inCtrl (.const 1)) ∧
    h.program[1]? = some (.read .status (some scratch)) ∧
    h.program[2]? = some (.branch scratch 0 0 (.const 1) (.by (-1))) ∧ h.program[3]? = none ∧
    { h with failed := true }.failed = true := by decide +kernel

/-- WAIT after another statement, in front of an idle engine and of a held DECSYM; and WAIT first. -/
theorem witness_WaitGoesOnWhenIdle :
    let h : HostRun := { HostRun.start [.close, .wait, .close] idle with here := 1 }
    h.failed = false ∧ h.here = [writeOp .inCtrl 1].length ∧
    h.program = [writeOp .inCtrl 1] ++ waitOps ++ [writeOp .inCtrl 1] ∧ h.machine.busy = false ∧
    { h with machine := { built with pending := some 0x31 } }.machine.busy = true ∧
    (HostRun.start [.wait] idle).program = [] ++ waitOps ++ [] :=
  ⟨rfl, rfl, by decide +kernel, rfl, rfl, by decide +kernel⟩

end Sys2Proof.Tests
end

section
/-! SUPPORT. What an engine step, a step and a host access answer (00_scope.md R6, R10), and the statements
HostTurnIsOneAccess, EngineNeverRefuses and HoldChangesNothing. -/

namespace Sys2Proof.Machine

/-! ## How a command ends (00_scope.md R10) -/

/-- The ending of each command's evaluation: what its meaning hands to `finish`. -/
def endingOf (i : Instr) (s : State) : Ending :=
  match i with
  | .nop => .done s
  | .srst => .done (softReset s)
  | .clrerr => .done (clearErrorRecord s)
  | .frqclr => .done (clearFrequencies s)
  | .frqinc sym => frqinc sym s
  | .bldlen => bldlen s
  | .bldcan => bldcan s
  | .bldtree => bldtree s
  | .wrbits n => wrbits n s
  | .wrclose => doneOrHold (closeWriter s)
  | .encsym sym => encsym sym s
  | .rdbit => rdbit s
  | .decsym => decsym s
  | .rdreset => .done (emptyReader s)

/-- Every command answers a next state, the one its ending leaves. -/
theorem exec_eq_settle (i : Instr) (s : State) : exec i s = .next (settle s (endingOf i s)) := by
  cases i <;> rfl

/-- Only `hold` leaves a word pending; `done` and `error` empty PENDING. -/
theorem eq_hold_of_settle_pending {s : State} {r : Ending} (h : (settle s r).pending ≠ none) :
    r = .hold := by
  cases r with
  | done t => exact absurd rfl h
  | hold => rfl
  | error e t => exact absurd rfl h

theorem frqinc_ne_hold (sym : Nat) (s : State) : frqinc sym s ≠ .hold := by
  unfold frqinc
  split
  · split <;> nofun
  · nofun

theorem bldlen_ne_hold (s : State) : bldlen s ≠ .hold := by
  unfold bldlen
  split <;> nofun

theorem bldcan_ne_hold (s : State) : bldcan s ≠ .hold := by
  unfold bldcan
  split <;> nofun

theorem bldtree_ne_hold (s : State) : bldtree s ≠ .hold := by
  unfold bldtree
  split <;> nofun

/-- The commands that can hold (70_reset_and_hazards.md R213). -/
theorem holding_command {i : Instr} {s : State} (h : endingOf i s = .hold) :
    (∃ n, i = .wrbits n) ∨ (∃ sym, i = .encsym sym) ∨ i = .wrclose ∨ i = .rdbit ∨ i = .decsym := by
  cases i with
  | wrbits n => exact .inl ⟨n, rfl⟩
  | encsym sym => exact .inr (.inl ⟨sym, rfl⟩)
  | wrclose => exact .inr (.inr (.inl rfl))
  | rdbit => exact .inr (.inr (.inr (.inl rfl)))
  | decsym => exact .inr (.inr (.inr (.inr rfl)))
  | frqinc sym => exact absurd h (frqinc_ne_hold sym s)
  | bldlen => exact absurd h (bldlen_ne_hold s)
  | bldcan => exact absurd h (bldcan_ne_hold s)
  | bldtree => exact absurd h (bldtree_ne_hold s)
  | nop | srst | clrerr | frqclr | rdreset => nomatch h

/-! ## The turns -/

theorem step_of_agenda_host {s : State} {a : Access} {rest : List Turn}
    (h : s.agenda = .host a :: rest) : step s = hostAccess a { s with agenda := rest } := by
  simp [step, takeTurn, h]

theorem step_of_agenda_engine {s : State} {rest : List Turn} (h : s.agenda = .engine :: rest) :
    step s = engineTurn { s with agenda := rest } := by
  simp [step, takeTurn, h]

theorem step_of_agenda_nil {s : State} (h : s.agenda = []) : step s = engineTurn s := by
  simp [step, takeTurn, h]

/-- Every turn is the host's or the engine's. -/
theorem host_or_engineHasTurn (s : State) :
    (∃ a rest, s.agenda = .host a :: rest) ∨ s.engineHasTurn :=
  match h : s.agenda with
  | [] => .inr (.inl h)
  | .engine :: rest => .inr (.inr ⟨rest, h⟩)
  | .host a :: rest => .inl ⟨a, rest, rfl⟩

theorem engineTurn_of_pending_none {s : State} (h : s.pending = none) : engineTurn s = .next s := by
  simp [engineTurn, h]

/-- The engine executes every word, a command's or an ILLEGAL one, to a next state. -/
theorem runWord_next (w : Word) (s : State) : ∃ t, runWord w s = .next t := by
  unfold runWord
  split
  · exact ⟨_, exec_eq_settle _ s⟩
  · exact ⟨_, finish_eq s _⟩

/-- The engine never refuses and never faults (R10). -/
theorem engineTurn_next (s : State) : ∃ t, engineTurn s = .next t := by
  unfold engineTurn
  split
  · exact ⟨s, rfl⟩
  · exact runWord_next _ s

theorem step_next_of_engineHasTurn {s : State} (h : s.engineHasTurn) : ∃ t, step s = .next t := by
  obtain hnil | ⟨rest, hcons⟩ := h
  · rw [step_of_agenda_nil hnil]
    exact engineTurn_next s
  · rw [step_of_agenda_engine hcons]
    exact engineTurn_next _

/-- A host access is performed or faults; it is never refused. -/
theorem hostAccess_ne_refused (a : Access) (s : State) (r : Refusal) : hostAccess a s ≠ .refused r := by
  unfold hostAccess
  split <;> split <;> nofun

/-! ## The statements -/

/-- Settles O9: a settled state with a word pending is that of `hold`, which is the state before. -/
theorem holdChangesNothing : Obligations.HoldChangesNothing := by
  intro i s t _ hexec hpending
  rw [exec_eq_settle] at hexec
  cases hexec
  have hhold : endingOf i s = .hold := eq_hold_of_settle_pending hpending
  exact ⟨by rw [hhold, settle_hold], holding_command hhold⟩

/-- Settles O7, from the equation of a step for each head of the agenda. -/
theorem hostTurnIsOneAccess : Obligations.HostTurnIsOneAccess := by
  intro s rest
  refine ⟨fun a ha => step_of_agenda_host ha, fun hp ha => ?_, fun hp ha => ?_⟩
  · rw [step_of_agenda_engine ha]
    exact engineTurn_of_pending_none hp
  · rw [step_of_agenda_nil ha]
    exact engineTurn_of_pending_none hp

/-- Settles O8: a step is a host access, which is never refused, or the engine's, which answers a next
state. -/
theorem engineNeverRefuses : Obligations.EngineNeverRefuses := by
  refine ⟨fun i s => ⟨_, exec_eq_settle i s⟩, fun s r hstep => ?_, fun s f hstep => ?_⟩
  · obtain ⟨a, rest, ha⟩ | hengine := host_or_engineHasTurn s
    · rw [step_of_agenda_host ha] at hstep
      exact hostAccess_ne_refused a _ r hstep
    · obtain ⟨t, ht⟩ := step_next_of_engineHasTurn hengine
      exact nomatch ht.symm.trans hstep
  · obtain hhost | hengine := host_or_engineHasTurn s
    · exact hhost
    · obtain ⟨t, ht⟩ := step_next_of_engineHasTurn hengine
      exact nomatch ht.symm.trans hstep

end Sys2Proof.Machine
end

section
/-! SUPPORT. A register's offset is an admitted place, so an access of a host program never faults
(20_memory.md R61, R62, R69); and the statement HostProgramTurnIsOneAccess. -/

namespace Sys2Proof.Machine

/-! ## The register at a register's offset -/

theorem freq_offset_toNat (i : Fin 256) : (Reg.freq i).offset.toNat = 0x400 + 4 * i.val := by
  simp only [Reg.offset, BitVec.toNat_ofNat]
  omega

theorem len_offset_toNat (i : Fin 256) : (Reg.len i).offset.toNat = 0x800 + 4 * i.val := by
  simp only [Reg.offset, BitVec.toNat_ofNat]
  omega

theorem code_offset_toNat (i : Fin 256) : (Reg.code i).offset.toNat = 0xC00 + 4 * i.val := by
  simp only [Reg.offset, BitVec.toNat_ofNat]
  omega

/-- The tables begin at multiples of 1024, so the word index modulo 256 is the entry. -/
theorem ofNat_tableOffset_div_four (k : Nat) (i : Fin 256) : Fin.ofNat 256 ((0x400 * k + 4 * i.val) / 4) = i := by
  apply Fin.ext
  simp only [Fin.ofNat]
  omega

theorem tableRegAt_freq (i : Fin 256) : tableRegAt (0x400 + 4 * i.val) = .freq i := by
  simp only [tableRegAt, ofNat_tableOffset_div_four 1 i]
  rw [if_pos (by omega)]

theorem tableRegAt_len (i : Fin 256) : tableRegAt (0x800 + 4 * i.val) = .len i := by
  simp only [tableRegAt, ofNat_tableOffset_div_four 2 i]
  rw [if_neg (by omega), if_pos (by omega)]

theorem tableRegAt_code (i : Fin 256) : tableRegAt (0xC00 + 4 * i.val) = .code i := by
  simp only [tableRegAt, ofNat_tableOffset_div_four 3 i]
  rw [if_neg (by omega), if_neg (by omega)]

/-- An aligned offset of 0x400 or more is a table entry's. -/
theorem regAt_of_table {off : BitVec 12} (halign : off.toNat % 4 = 0) (hge : 0x400 ≤ off.toNat) :
    regAt off = .ok (tableRegAt off.toNat) := by
  simp [regAt, halign, Nat.not_lt.mpr hge]

/-- The register map finds every register at its offset. -/
theorem regAt_offset (r : Reg) : regAt r.offset = .ok r := by
  cases r with
  | freq i =>
    have hoff := freq_offset_toNat i
    rw [regAt_of_table (by omega) (by omega), hoff, tableRegAt_freq]
  | len i =>
    have hoff := len_offset_toNat i
    rw [regAt_of_table (by omega) (by omega), hoff, tableRegAt_len]
  | code i =>
    have hoff := code_offset_toNat i
    rw [regAt_of_table (by omega) (by omega), hoff, tableRegAt_code]
  | id | version | ctrl | status | cmd | data | result | inData | inCtrl | outData | fifoStat => rfl

/-- A 32-bit access at a register's offset passes the checks of R61. -/
theorem checkAccess_offset (r : Reg) : checkAccess .w32 (.offset r.offset) = .ok r := by
  simp [checkAccess, Place.resolve, regAt_offset]

theorem hostAccess_write_offset (r : Reg) (v : Word) (s : State) :
    hostAccess (.write .w32 (.offset r.offset) v) s = .next (writeRegister r v s) := by
  simp [hostAccess, checkAccess_offset]

theorem hostAccess_read_offset (r : Reg) (s : State) :
    hostAccess (.read .w32 (.offset r.offset)) s = .next (readRegister r s) := by
  simp [hostAccess, checkAccess_offset]

@[simp] theorem readRegister_readLog (r : Reg) (s : State) :
    (readRegister r s).readLog = s.readLog ++ [readValue r s] := rfl

/-! ## One turn of a host program (30_encoding.md R98) -/

/-- A `W` performs its write, and the program goes on. -/
theorem HostRun.hostTurn_write {h : HostRun} {r : Reg} {v : HostValue} (hrun : h.failed = false)
    (hop : h.program[h.here]? = some (.write r v)) :
    h.hostTurn = .next { h with
      machine := writeRegister r (h.valueOf v) h.machine, here := h.here + 1 } := by
  simp [HostRun.hostTurn, hrun, hop, hostAccess_write_offset]

/-- After a read the value joins the names under the read's name, if it has one. -/
theorem HostRun.afterAccess_of_readLog {h : HostRun} {s : State} {log : List Word} {v : Word}
    (name : Option String) (hlog : s.readLog = log ++ [v]) :
    h.afterAccess name (.next s) = .next { h with
      machine := s
      here := h.here + 1
      names := name.toList.map (fun n => (n, v)) ++ h.names } := by
  cases name with
  | none => simp
  | some n => simp [hlog]

/-- An `R` performs its read, the value joins the names, and the program goes on. -/
theorem HostRun.hostTurn_read {h : HostRun} {r : Reg} {name : Option String} (hrun : h.failed = false)
    (hop : h.program[h.here]? = some (.read r name)) :
    h.hostTurn = .next { h with
      machine := readRegister r h.machine
      here := h.here + 1
      names := name.toList.map (fun n => (n, readValue r h.machine)) ++ h.names } := by
  have hturn : h.hostTurn = h.afterAccess name (.next (readRegister r h.machine)) := by
    simp [HostRun.hostTurn, hrun, hop, hostAccess_read_offset]
  exact hturn.trans (HostRun.afterAccess_of_readLog name (readRegister_readLog r h.machine))

/-- After a CHECK stopped the program a turn does nothing. -/
theorem HostRun.hostTurn_of_failed {h : HostRun} (hstop : h.failed = true) : h.hostTurn = .next h := by
  simp [HostRun.hostTurn, hstop]

/-- A turn whose operation is neither a `W` nor an `R` leaves the machine alone. -/
theorem HostRun.hostTurn_without_access {h : HostRun} (hw : ∀ r v, h.program[h.here]? ≠ some (.write r v))
    (hr : ∀ r name, h.program[h.here]? ≠ some (.read r name)) :
    ∃ h', h.hostTurn = .next h' ∧ h'.machine = h.machine := by
  unfold HostRun.hostTurn
  split
  · exact ⟨h, rfl, rfl⟩
  · cases hop : h.program[h.here]? with
    | none => exact ⟨h, rfl, rfl⟩
    | some op =>
      cases op with
      | write r v => exact absurd hop (hw r v)
      | read r name => exact absurd hop (hr r name)
      | mark l => exact ⟨h.advance, rfl, h.advance_machine⟩
      | branch n hi lo v dest => exact ⟨_, rfl, by split <;> simp⟩
      | jump dest => exact ⟨h.goTo dest, rfl, h.goTo_machine dest⟩
      | append n hi lo l => exact ⟨_, rfl, rfl⟩
      | failIf n hi lo v => exact ⟨_, rfl, by split <;> simp⟩

/-- Settles O59, from one equation for a `W`, one for an `R`, and the frame of every other turn. -/
theorem hostProgramTurnIsOneAccess : Obligations.HostProgramTurnIsOneAccess := by
  intro h
  refine ⟨fun r v hrun hop => ?_, fun r name hrun hop => ?_, ?_⟩
  · exact ⟨_, hostAccess_write_offset r (h.valueOf v) h.machine, HostRun.hostTurn_write hrun hop⟩
  · exact ⟨_, _, hostAccess_read_offset r h.machine, readRegister_readLog r h.machine,
      HostRun.hostTurn_read hrun hop⟩
  · rintro (hstop | ⟨hw, hr⟩)
    · exact ⟨h, HostRun.hostTurn_of_failed hstop, rfl⟩
    · exact HostRun.hostTurn_without_access hw hr

end Sys2Proof.Machine
end

section
/-! SUPPORT. What the evaluation of a command can end in, as one rule per command for an arbitrary property of
states, and what a step can do, as one case analysis; the statement StepRunsTheDecodedCommand. -/

namespace Sys2Proof.Machine

/-! ## How an evaluation ends (00_scope.md R10) -/

/-- `P` holds of the state an ending carries; `hold` carries none. -/
def Ending.All (P : State → Prop) : Ending → Prop
  | .done t => P t
  | .hold => True
  | .error _ t => P t

@[simp] theorem Ending.all_done {P : State → Prop} {t : State} : (Ending.done t).All P ↔ P t := Iff.rfl

@[simp] theorem Ending.all_hold {P : State → Prop} : Ending.hold.All P := trivial

@[simp] theorem Ending.all_error {P : State → Prop} {e : ErrorCode} {t : State} :
    (Ending.error e t).All P ↔ P t := Iff.rfl

section
variable {P : State → Prop} {s : State}

theorem frqinc_all (sym : Nat) (hs : P s) (hcount : P (countSymbol sym s)) : (frqinc sym s).All P := by
  unfold frqinc
  split
  · split
    · exact hs
    · exact hcount
  · exact hs

theorem bldlen_all (hs : P s)
    (hdone : ∀ lens, buildCodeLengths s.freq s.size = .ok lens →
      P { s with len := storeLengths s.size lens s.len }.invalidate) : (bldlen s).All P := by
  unfold bldlen
  split
  · exact hs
  · exact hdone _ ‹_›

theorem bldcan_all (hs : P s)
    (hdone : ∀ codes, buildCanonicalCodes s.len s.size = .ok codes →
      P { s with code := storeCodes s.size codes s.code }.codesBuilt) : (bldcan s).All P := by
  unfold bldcan
  split
  · exact hs
  · exact hdone _ ‹_›

theorem bldtree_all (hs : P s)
    (hdone : s.codesValid = true →
      P { s with tree := buildDecodingTree s.len s.code s.size }.treeBuilt) : (bldtree s).All P := by
  unfold bldtree
  split
  · exact hdone ‹_›
  · exact hs

/-- Whatever a written bit keeps, the writing of bits keeps. -/
theorem writeBits_all (hbit : ∀ b t u, P t → writeBit b t = some u → P u) (hs : P s) (v : Word) (n : Nat) :
    (doneOrHold (writeBits v n s)).All P := by
  induction n generalizing s with
  | zero => exact hs
  | succ n ih =>
    rw [writeBits_succ]
    cases hwrite : writeBit (v.getLsbD n) s with
    | none => trivial
    | some t => exact ih (hbit _ _ _ hs hwrite)

theorem wrbits_all (hbit : ∀ b t u, P t → writeBit b t = some u → P u) (hs : P s) (n : Nat) :
    (wrbits n s).All P := by
  unfold wrbits
  split
  · exact hs
  · exact writeBits_all hbit hs _ _

theorem encsym_all (hbit : ∀ b t u, P t → writeBit b t = some u → P u) (hs : P s) (sym : Nat) :
    (encsym sym s).All P := by
  unfold encsym
  split
  · split
    · split
      · exact hs
      · exact writeBits_all hbit hs _ _
    · exact hs
  · exact hs

theorem closeWriter_all (hs : P s)
    (hflush : s.outq.length ≠ Config.outDepth → ∀ b, P (pushOut b s).writerEmptied) :
    (doneOrHold (closeWriter s)).All P := by
  obtain ⟨-, hc⟩ | ⟨-, -, hc⟩ | ⟨-, hroom, hc⟩ := closeWriter_cases s
  · rwa [hc]
  · rw [hc]; trivial
  · rw [hc]; exact hflush hroom _

theorem rdbit_all (hbit : ∀ b t u, P t → readBit t = .bit b u → P u) (hs : P s)
    (hresult : ∀ t v eos, P t → P { t with result := v, eos := eos }) : (rdbit s).All P := by
  unfold rdbit
  split
  · trivial
  · exact hresult s _ _ hs
  · exact hresult _ _ _ (hbit _ _ _ hs ‹_›)

theorem decodeWalk_all (hbit : ∀ b t u, P t → readBit t = .bit b u → P u)
    (hresult : ∀ t v, P t → P { t with result := v }) (fuel cur : Nat) (hs : P s) :
    (decodeWalk fuel cur s).All P := by
  induction fuel generalizing cur s with
  | zero => trivial
  | succ fuel ih =>
    unfold decodeWalk
    split
    · trivial
    · exact hs
    · have hu := hbit _ _ _ hs ‹_›
      split
      · exact hu
      · split
        · exact ih _ hu
        · exact hresult _ _ hu

theorem decsym_all (hbit : ∀ b t u, P t → readBit t = .bit b u → P u) (hs : P s)
    (hresult : ∀ t v, P t → P { t with result := v }) : (decsym s).All P := by
  unfold decsym
  split
  · exact decodeWalk_all hbit hresult _ _ hs
  · exact hs

end

/-! ## What a host write can do (20_memory.md R64 to R67, R69) -/

/-- The effects of a host write of `v` to the register `r` on `s`, and when each can occur. -/
inductive WriteEffect (s : State) : Reg → Word → State → Prop
  | ignored (r : Reg) (v : Word) : WriteEffect s r v s
  | barred (r : Reg) (v : Word) (e : ErrorCode) (hbusy : s.busy = true) : WriteEffect s r v (recordError e s)
  | accepted (v : Word) (hidle : s.busy = false) : WriteEffect s .cmd v { s with pending := some v }
  | dropped (v : Word) : WriteEffect s .inData v { s with inDrop := true }
  | pushed (v : Word) (hroom : s.inq.length ≠ Config.inDepth) :
      WriteEffect s .inData v { s with inq := s.inq ++ [v.setWidth 8] }
  | closed (v : Word) : WriteEffect s .inCtrl v { s with inClosed := true }
  | sized (v : Word) (hidle : s.busy = false) (hlegal : 1 ≤ v.toNat % 512 ∧ v.toNat % 512 ≤ 256) :
      WriteEffect s .ctrl v { s with size := v.toNat % 512 }.invalidate
  | stored (v : Word) (hidle : s.busy = false) : WriteEffect s .data v { s with data := v }
  | freqSet (i : Fin 256) (v : Word) (hidle : s.busy = false) :
      WriteEffect s (.freq i) v { s with freq := s.freq.write i.val v }
  | lenSet (i : Fin 256) (v : Word) (hidle : s.busy = false) :
      WriteEffect s (.len i) v (writeLen i.val v s)

/-- A write that only an idle engine serves is barred, or has its own effect. -/
theorem unlessBusy_effect {r : Reg} {v : Word} {s t : State} (h : s.busy = false → WriteEffect s r v t) :
    WriteEffect s r v (unlessBusy t s) := by
  unfold unlessBusy
  split
  · exact .barred r v .writeBusy ‹_›
  · exact h (Bool.eq_false_iff.mpr ‹_›)

theorem acceptCmd_effect (v : Word) (s : State) : WriteEffect s .cmd v (acceptCmd v s) := by
  unfold acceptCmd
  split
  · exact .barred .cmd v .cmdBusy ‹_›
  · split
    · exact .ignored .cmd v
    · exact .accepted v (Bool.eq_false_iff.mpr ‹_›)

theorem pushIn_effect (v : Word) (s : State) : WriteEffect s .inData v (pushIn v s) := by
  unfold pushIn
  split
  · exact .dropped v
  · rename_i hopen
    exact .pushed v (not_or.mp hopen).2

theorem closeInput_effect (v : Word) (s : State) : WriteEffect s .inCtrl v (closeInput v s) := by
  unfold closeInput
  split
  · exact .closed v
  · exact .ignored .inCtrl v

theorem writeSize_effect (v : Word) (s : State) (hidle : s.busy = false) :
    WriteEffect s .ctrl v (writeSize v s) := by
  unfold writeSize
  split
  · exact .sized v hidle ‹_›
  · exact .ignored .ctrl v

/-- A host write has one of the listed effects. -/
theorem writeRegister_effect (r : Reg) (v : Word) (s : State) : WriteEffect s r v (writeRegister r v s) := by
  cases r with
  | cmd => exact acceptCmd_effect v s
  | inData => exact pushIn_effect v s
  | inCtrl => exact closeInput_effect v s
  | ctrl => exact unlessBusy_effect (writeSize_effect v s)
  | data => exact unlessBusy_effect (.stored v)
  | freq i => exact unlessBusy_effect (.freqSet i v)
  | len i => exact unlessBusy_effect (.lenSet i v)
  | id | version | status | result | outData | fifoStat | code => exact .ignored _ v

/-! ## What a host read can do (20_memory.md R63, R68) -/

/-- A read changes only OUTQ and the read log. -/
theorem readRegister_frame (r : Reg) (s : State) :
    readRegister r s =
      { s with outq := (readRegister r s).outq, readLog := (readRegister r s).readLog } := by
  cases r <;> rfl

/-- A read pops at most one byte of OUTQ. -/
theorem readRegister_outq (r : Reg) (s : State) :
    (readRegister r s).outq = s.outq ∨ (readRegister r s).outq = s.outq.tail := by
  cases r with
  | outData => exact .inr rfl
  | _ => exact .inl rfl

/-! ## What a step can do (00_scope.md R6, 20_memory.md R76) -/

/-- The events a step of `s` can be, each with the state it leaves. The turn taken comes off the agenda; with
the agenda empty there is none to take off. -/
inductive StepEvent (s : State) : State → Prop
  | read (r : Reg) (hread : s.hostReads r) :
      StepEvent s (readRegister r { s with agenda := s.agenda.tail })
  | write (r : Reg) (v : Word) (t : State) (hwrite : s.hostWrites r v)
      (heffect : WriteEffect { s with agenda := s.agenda.tail } r v t) : StepEvent s t
  | idle (hpending : s.pending = none) : StepEvent s { s with agenda := s.agenda.tail }
  | illegal (hturn : s.engineHasTurn) :
      StepEvent s (recordError .illegal { s with agenda := s.agenda.tail, pending := none })
  | command (i : Instr) (t : State) (hexecutes : s.executes i)
      (hexec : exec i { s with agenda := s.agenda.tail } = .next t) : StepEvent s t

/-- The engine's turn comes off the agenda, whether it stands there or the agenda is empty. -/
theorem step_of_engineHasTurn {s : State} (h : s.engineHasTurn) :
    step s = engineTurn { s with agenda := s.agenda.tail } := by
  obtain hnil | ⟨rest, hcons⟩ := h
  · rw [step_of_agenda_nil hnil, hnil, List.tail_nil, ← hnil]
  · rw [step_of_agenda_engine hcons, hcons, List.tail_cons]

/-- An engine that has the turn executes the command its pending word decodes to. -/
theorem step_of_executes {s : State} {i : Instr} (h : s.executes i) :
    step s = exec i { s with agenda := s.agenda.tail } := by
  obtain ⟨⟨w, hw, hi⟩, hturn⟩ := h
  rw [step_of_engineHasTurn hturn]
  simp [engineTurn, hw, runWord, hi]

theorem hostAccess_event {s t : State} {a : Access} {rest : List Turn} (hagenda : s.agenda = .host a :: rest)
    (h : hostAccess a { s with agenda := s.agenda.tail } = .next t) : StepEvent s t := by
  obtain ⟨w, p, r, rfl, hcheck, rfl⟩ | ⟨w, p, v, r, rfl, hcheck, rfl⟩ := hostAccess_cases h
  · obtain ⟨rfl, -⟩ := checkAccess_ok hcheck
    exact .read r ⟨p, rest, hagenda, hcheck⟩
  · obtain ⟨rfl, -⟩ := checkAccess_ok hcheck
    exact .write r v _ ⟨p, rest, hagenda, hcheck⟩ (writeRegister_effect r v _)

theorem engineTurn_event {s t : State} (hturn : s.engineHasTurn)
    (h : engineTurn { s with agenda := s.agenda.tail } = .next t) : StepEvent s t := by
  obtain ⟨hnone, rfl⟩ | ⟨w, i, hw, hi, hexec⟩ | ⟨w, e, -, -, rfl⟩ := engineTurn_cases h
  · exact .idle hnone
  · exact .command i t ⟨⟨w, hw, hi⟩, hturn⟩ hexec
  · exact .illegal hturn

/-- A step that answers is one of the listed events. -/
theorem step_event {s t : State} (h : step s = .next t) : StepEvent s t := by
  obtain ⟨a, rest, hagenda⟩ | hturn := host_or_engineHasTurn s
  · rw [step_of_agenda_host hagenda] at h
    exact hostAccess_event hagenda (by rwa [hagenda])
  · rw [step_of_engineHasTurn hturn] at h
    exact engineTurn_event hturn h

/-- The word `withFetchWord` places is pending, and the engine has the turn. -/
theorem withFetchWord_executes {s : State} {nbits w : Nat} {i : Instr} (h : decode (tableWord nbits w) = .ok i) :
    (s.withFetchWord nbits w).executes i := by
  refine ⟨⟨_, rfl, h⟩, ?_⟩
  cases hagenda : s.agenda with
  | nil => exact .inl (by simp [State.withFetchWord, hagenda, engineNext])
  | cons turn rest => exact .inr ⟨turn :: rest, by simp [State.withFetchWord, hagenda, engineNext]⟩

/-- The engine's turn that `withFetchWord` puts before an agenda is the one its next step takes off. -/
theorem engineNext_tail (agenda : List Turn) : (engineNext agenda).tail = agenda := by
  cases agenda <;> rfl

/-- Settles O6: in each case the engine has the turn and executes the command. -/
theorem stepRunsTheDecodedCommand : Obligations.StepRunsTheDecodedCommand := by
  refine ⟨fun s w i hw hi => ⟨fun hnil => ?_, fun rest hcons => ?_⟩, fun s nbits w i hi => ?_⟩
  · rw [step_of_executes ⟨⟨w, hw, hi⟩, .inl hnil⟩, hnil, List.tail_nil, ← hnil]
  · rw [step_of_executes ⟨⟨w, hw, hi⟩, .inr ⟨rest, hcons⟩⟩, hcons, List.tail_cons]
  · rw [step_of_executes (withFetchWord_executes hi)]
    simp only [State.withFetchWord, submit, engineNext_tail]

end Sys2Proof.Machine
end

section
/-! SUPPORT. The invariant of 10_state.md R45: what each kind of update needs to keep it, that every command and
every host access keeps it, and the statements ResetSatisfiesInv, StepKeepsInv and ReachableStatesSatisfyInv. -/

namespace Sys2Proof.Machine

/-! ## What an update needs to keep the invariant -/

/-- Elements the invariant does not speak of may change freely. -/
theorem Inv.withUnconstrained {s : State} (h : Inv s) (pending : Option Word) (data result : Word)
    (eos inClosed inDrop : Bool) (freq : Table 32) (agenda : List Turn) (readLog : List Word) :
    Inv { s with
      pending := pending, data := data, result := result, eos := eos, inClosed := inClosed
      inDrop := inDrop, freq := freq, agenda := agenda, readLog := readLog } :=
  ⟨h.size_legal, h.writer, h.reader, h.fifos, h.codes, h.tree_current, h.errors, h.arena, h.code_assigned⟩

theorem Inv.withWriter {s : State} (h : Inv s) {wacc : Byte} {wn : Nat} {outq : List Byte}
    (hwriter : wn ≤ 7 ∧ wacc.toNat < 2 ^ wn) (hdepth : outq.length ≤ Config.outDepth) :
    Inv { s with wacc := wacc, wn := wn, outq := outq } :=
  ⟨h.size_legal, hwriter, h.reader, ⟨h.fifos.1, hdepth⟩, h.codes, h.tree_current, h.errors, h.arena,
    h.code_assigned⟩

theorem Inv.withReader {s : State} (h : Inv s) (rbyte : Byte) {rn : Nat} {inq : List Byte}
    (hreader : rn ≤ 8) (hdepth : inq.length ≤ Config.inDepth) :
    Inv { s with rbyte := rbyte, rn := rn, inq := inq } :=
  ⟨h.size_legal, h.writer, hreader, ⟨hdepth, h.fifos.2⟩, h.codes, h.tree_current, h.errors, h.arena,
    h.code_assigned⟩

theorem Inv.withRecord {s : State} (h : Inv s) {err : Bool} {errcode : Byte}
    (herrors : err = false ↔ errcode = 0) (hcode : errcode.toNat ≤ 14) :
    Inv { s with err := err, errcode := errcode } :=
  ⟨h.size_legal, h.writer, h.reader, h.fifos, h.codes, h.tree_current, herrors, h.arena, hcode⟩

/-- With both valid bits down, LEN is free and SIZE only has to be legal. -/
theorem Inv.withInvalidated {s : State} (h : Inv s) {size : Nat} (hsize : 1 ≤ size ∧ size ≤ 256)
    (len : Table 8) : Inv { s with size := size, len := len }.invalidate :=
  ⟨hsize, h.writer, h.reader, h.fifos, nofun, nofun, h.errors, h.arena, h.code_assigned⟩

theorem Inv.withPending {s : State} (h : Inv s) (pending : Option Word) : Inv { s with pending := pending } :=
  h.withUnconstrained _ _ _ _ _ _ _ _ _

theorem Inv.withAgenda {s : State} (h : Inv s) (agenda : List Turn) : Inv { s with agenda := agenda } :=
  h.withUnconstrained _ _ _ _ _ _ _ _ _

/-! ## The error record (60_exceptions.md R181, R183) -/

theorem ErrorCode.number_ne_zero (e : ErrorCode) : e.number ≠ 0 := by
  cases e <;> decide

theorem ErrorCode.number_le (e : ErrorCode) : e.number.toNat ≤ 14 := by
  cases e <;> decide

theorem recordError_inv {s : State} (h : Inv s) (e : ErrorCode) : Inv (recordError e s) := by
  refine h.withRecord (iff_of_false nofun ?_) ?_
  · split
    · rename_i herr
      exact fun hzero => Bool.false_ne_true ((h.errors.mpr hzero).symm.trans herr)
    · exact e.number_ne_zero
  · split
    · exact h.code_assigned
    · exact e.number_le

theorem clearErrorRecord_inv {s : State} (h : Inv s) : Inv (clearErrorRecord s) :=
  (h.withRecord (err := false) (errcode := 0) (by decide) (by decide)).withUnconstrained
    _ _ _ _ _ false _ _ _

/-- An engine step keeps the invariant when its evaluation does. -/
theorem settle_inv {s : State} {r : Ending} (hs : Inv s) (hr : r.All Inv) : Inv (settle s r) := by
  cases r with
  | done t => exact Inv.withPending hr none
  | hold => exact hs
  | error e t => exact recordError_inv (Inv.withPending hr none) e

/-! ## The bit writer and the bit reader (43_bitstream.md R160 to R162) -/

/-- One more bit of WACC doubles its bound (R45 (a)). -/
theorem accumulate_lt {acc : Byte} {n : Nat} (h : acc.toNat < 2 ^ n) (b : Bool) :
    (accumulate acc b).toNat < 2 ^ (n + 1) := by
  have hbit : b.toNat ≤ 1 := Bool.toNat_le b
  have hmod : (accumulate acc b).toNat ≤ 2 * acc.toNat + b.toNat := by
    rw [accumulate, BitVec.toNat_ofNat]
    exact Nat.mod_le _ _
  omega

/-- A FIFO that is within its depth and not full has room for one more byte. -/
theorem length_append_singleton_le {q : List Byte} {depth : Nat} (hle : q.length ≤ depth) (hne : q.length ≠ depth)
    (b : Byte) : (q ++ [b]).length ≤ depth := by
  rw [List.length_append, List.length_singleton]
  omega

theorem pushOut_writerEmptied_inv {s : State} (h : Inv s) (hroom : s.outq.length ≠ Config.outDepth) (b : Byte) :
    Inv (pushOut b s).writerEmptied :=
  h.withWriter (by decide) (length_append_singleton_le h.fifos.2 hroom b)

theorem writeBit_inv (b : Bool) (s t : State) (h : Inv s) (hwrite : writeBit b s = some t) : Inv t := by
  obtain ⟨-, hroom, rfl⟩ | ⟨hwn, rfl⟩ := writeBit_cases hwrite
  · exact pushOut_writerEmptied_inv h hroom _
  · obtain ⟨hle, hlt⟩ := h.writer
    exact h.withWriter ⟨by omega, accumulate_lt hlt b⟩ h.fifos.2

theorem readBit_inv (b : Bool) (s t : State) (h : Inv s) (hread : readBit s = .bit b t) : Inv t := by
  obtain ⟨-, -, -, he⟩ | ⟨-, -, -, he⟩ | ⟨c, rest, -, hq, he⟩ | ⟨-, he⟩ := readBit_cases s
  all_goals
    rw [he] at hread
    cases hread
  · have hdepth : rest.length + 1 ≤ Config.inDepth := by simpa [hq] using h.fifos.1
    exact h.withReader c (by decide) (Nat.le_of_succ_le hdepth)
  · exact h.withReader _ ((Nat.sub_le _ _).trans h.reader) h.fifos.1

/-! ## The codes (41_huffman_build.md R126) -/

/-- A table that a builder has stored holds what the builder says below the bound. -/
theorem storeCodes_read_of_lt {n i : Nat} (codes : List (Nat × Nat)) (code : Table 32) (hi : i < n)
    (hn : n ≤ 256) : (storeCodes n codes code).read i = BitVec.ofNat 32 (valueFor codes i) := by
  rw [storeCodes, Table.read_tabulate _ (by omega), if_pos hi]

/-- BLDCAN admits no length above 32. -/
theorem lengths_le_of_buildCanonicalCodes {len : Table 8} {n : Nat} {codes : List (Nat × Nat)}
    (h : buildCanonicalCodes len n = .ok codes) {i : Nat} (hi : i < n) : (len.read i).toNat ≤ 32 := by
  unfold buildCanonicalCodes at h
  split at h
  · cases h
  · rename_i hnone
    simp only [List.any_eq_true, List.mem_range, decide_eq_true_eq, not_exists, not_and, Nat.not_lt] at hnone
    exact hnone i hi

theorem codesBuilt_inv {s : State} (h : Inv s) {codes : List (Nat × Nat)}
    (hcodes : buildCanonicalCodes s.len s.size = .ok codes) :
    Inv { s with code := storeCodes s.size codes s.code }.codesBuilt where
  size_legal := h.size_legal
  writer := h.writer
  reader := h.reader
  fifos := h.fifos
  codes := fun _ =>
    ⟨fun _ hi => lengths_le_of_buildCanonicalCodes hcodes hi, codes, hcodes,
      fun _ hi => storeCodes_read_of_lt codes s.code hi h.size_legal.2⟩
  tree_current := nofun
  errors := h.errors
  arena := h.arena
  code_assigned := h.code_assigned

/-! ## The arena (10_state.md R41, 42_huffman_tree.md R140) -/

/-- A walk creates at most one node for each bit. -/
theorem insertPath_length_le (code : Word) (n : Nat) (tree : List Node) (cur : Nat) :
    (insertPath code n tree cur).1.length ≤ tree.length + n := by
  induction n generalizing tree cur with
  | zero => exact Nat.le_refl _
  | succ n ih =>
    unfold insertPath
    split
    · exact (ih tree _).trans (by omega)
    · refine (ih _ _).trans ?_
      simp only [setChild, List.length_modify, List.length_append, List.length_singleton]
      omega

/-- A symbol with a length of at most 32 creates at most 32 nodes. -/
theorem insertSymbol_length_le {len : Table 8} (code : Table 32) (tree : List Node) {i : Nat}
    (h : (len.read i).toNat ≤ 32) : (insertSymbol len code tree i).length ≤ tree.length + 32 := by
  unfold insertSymbol
  split
  · exact Nat.le_add_right _ _
  · simp only [setSym, List.length_modify]
    exact (insertPath_length_le _ _ _ _).trans (Nat.add_le_add_left h _)

theorem foldl_insertSymbol_length_le {len : Table 8} (code : Table 32) (syms : List Nat) (tree : List Node)
    (h : ∀ i ∈ syms, (len.read i).toNat ≤ 32) :
    (syms.foldl (insertSymbol len code) tree).length ≤ tree.length + 32 * syms.length := by
  induction syms generalizing tree with
  | nil => exact Nat.le_add_right _ _
  | cons i syms ih =>
    obtain ⟨hi, hsyms⟩ := List.forall_mem_cons.mp h
    have htail := ih (insertSymbol len code tree i) hsyms
    have hhead := insertSymbol_length_le code tree hi
    rw [List.foldl_cons, List.length_cons]
    omega

/-- The tree of at most 256 codes of at most 32 bits fits the arena. -/
theorem buildDecodingTree_length_le {len : Table 8} (code : Table 32) {n : Nat} (hn : n ≤ 256)
    (h : ∀ i, i < n → (len.read i).toNat ≤ 32) :
    (buildDecodingTree len code n).length ≤ Config.nodeCap := by
  have hfold := foldl_insertSymbol_length_le code (List.range n) [Node.fresh]
    fun i hi => h i (List.mem_range.mp hi)
  rw [List.length_singleton, List.length_range] at hfold
  calc (buildDecodingTree len code n).length
      ≤ 1 + 32 * n := hfold
    _ ≤ Config.nodeCap := by unfold Config.nodeCap; omega

theorem treeBuilt_inv {s : State} (h : Inv s) (hvalid : s.codesValid = true) :
    Inv { s with tree := buildDecodingTree s.len s.code s.size }.treeBuilt where
  size_legal := h.size_legal
  writer := h.writer
  reader := h.reader
  fifos := h.fifos
  codes := h.codes
  tree_current := fun _ => ⟨hvalid, rfl⟩
  errors := h.errors
  arena := buildDecodingTree_length_le s.code h.size_legal.2 (h.codes hvalid).1
  code_assigned := h.code_assigned

/-! ## Reset (10_state.md R46) -/

theorem reset_inv : Inv State.reset where
  size_legal := by decide
  writer := by decide
  reader := Nat.zero_le 8
  fifos := ⟨Nat.zero_le _, Nat.zero_le _⟩
  codes := nofun
  tree_current := nofun
  errors := by decide
  arena := List.length_take_le _ _
  code_assigned := by decide

/-- SRST leaves what power-on leaves, but for the tables and TREE. -/
theorem softReset_inv {s : State} (h : Inv s) : Inv (softReset s) where
  size_legal := reset_inv.size_legal
  writer := reset_inv.writer
  reader := reset_inv.reader
  fifos := reset_inv.fifos
  codes := nofun
  tree_current := nofun
  errors := reset_inv.errors
  arena := h.arena
  code_assigned := reset_inv.code_assigned

theorem emptyReader_inv {s : State} (h : Inv s) : Inv (emptyReader s) :=
  (h.withReader 0 (Nat.zero_le 8) (Nat.zero_le _)).withUnconstrained _ _ _ false false _ _ _ _

/-! ## The steps -/

/-- The evaluation of every command keeps the invariant. -/
theorem endingOf_inv {s : State} (h : Inv s) (i : Instr) : (endingOf i s).All Inv := by
  cases i with
  | nop => exact h
  | srst => exact softReset_inv h
  | clrerr => exact clearErrorRecord_inv h
  | frqclr => exact h.withUnconstrained _ _ _ _ _ _ _ _ _
  | frqinc sym => exact frqinc_all sym h (h.withUnconstrained _ _ _ _ _ _ _ _ _)
  | bldlen => exact bldlen_all h fun _ _ => h.withInvalidated h.size_legal _
  | bldcan => exact bldcan_all h fun _ hcodes => codesBuilt_inv h hcodes
  | bldtree => exact bldtree_all h (treeBuilt_inv h)
  | wrbits n => exact wrbits_all writeBit_inv h n
  | wrclose => exact closeWriter_all h (pushOut_writerEmptied_inv h)
  | encsym sym => exact encsym_all writeBit_inv h sym
  | rdbit => exact rdbit_all readBit_inv h fun t v eos ht => ht.withUnconstrained _ _ v eos _ _ _ _ _
  | decsym => exact decsym_all readBit_inv h fun t v ht => ht.withUnconstrained _ _ v _ _ _ _ _ _
  | rdreset => exact emptyReader_inv h

theorem exec_inv {i : Instr} {s t : State} (h : Inv s) (hexec : exec i s = .next t) : Inv t := by
  rw [exec_eq_settle] at hexec
  cases hexec
  exact settle_inv h (endingOf_inv h i)

theorem readRegister_inv {s : State} (h : Inv s) (r : Reg) : Inv (readRegister r s) := by
  have hdepth : (readRegister r s).outq.length ≤ Config.outDepth := by
    obtain hsame | htail := readRegister_outq r s
    · rw [hsame]
      exact h.fifos.2
    · rw [htail, List.length_tail]
      exact (Nat.sub_le _ _).trans h.fifos.2
  rw [readRegister_frame]
  exact (h.withWriter h.writer hdepth).withUnconstrained _ _ _ _ _ _ _ _ _

theorem WriteEffect.inv {s t : State} {r : Reg} {v : Word} (h : Inv s) (heffect : WriteEffect s r v t) :
    Inv t := by
  cases heffect with
  | ignored => exact h
  | barred _ _ e => exact recordError_inv h e
  | accepted | dropped | closed | stored | freqSet => exact h.withUnconstrained _ _ _ _ _ _ _ _ _
  | pushed _ hroom => exact h.withReader _ h.reader (length_append_singleton_le h.fifos.1 hroom _)
  | sized _ _ hlegal => exact h.withInvalidated hlegal _
  | lenSet => exact h.withInvalidated h.size_legal _

theorem StepEvent.inv {s t : State} (h : Inv s) (hevent : StepEvent s t) : Inv t := by
  have hturn := h.withAgenda s.agenda.tail
  cases hevent with
  | read r => exact readRegister_inv hturn r
  | write _ _ _ _ heffect => exact heffect.inv hturn
  | idle => exact hturn
  | illegal => exact recordError_inv (hturn.withPending none) .illegal
  | command _ _ _ hexec => exact exec_inv hturn hexec

/-! ## The statements -/

/-- Settles O11: the agenda is no concern of the invariant, and a draw of TREE is cut to the arena. -/
theorem resetSatisfiesInv : Obligations.ResetSatisfiesInv :=
  fun agenda => reset_inv.withAgenda agenda

/-- Settles O12: every event a step can be keeps the invariant. -/
theorem stepKeepsInv : Obligations.StepKeepsInv :=
  fun _ _ h hstep => (step_event hstep).inv h

/-- A run of one step more that answers is a step that answers, and the rest of the run. -/
theorem run_succ_eq_next {M : Host.Core} {n : Nat} {s t : M.State} (h : M.run (n + 1) s = .next t) :
    ∃ u, M.step s = .next u ∧ M.run n u = .next t := by
  unfold Host.Core.run at h
  split at h
  · exact ⟨_, ‹_›, h⟩
  · cases h
  · cases h

/-- What every step keeps holds at the end of a run that begins with it. -/
theorem run_keeps {P : State → Prop} (hkeep : ∀ s t, P s → step s = .next t → P t) {n : Nat} {s t : State}
    (hs : P s) (hrun : Host.Core.run Sys2Proof.core n s = .next t) : P t := by
  induction n generalizing s with
  | zero => cases hrun; exact hs
  | succ n ih =>
    obtain ⟨u, hstep, hrest⟩ := run_succ_eq_next hrun
    exact ih (hkeep s u hs hstep) hrest

/-- Settles O13: the invariant holds at reset, and every step of a run keeps it. -/
theorem reachableStatesSatisfyInv : Obligations.ReachableStatesSatisfyInv :=
  fun agenda _ _ hrun => run_keeps stepKeepsInv (resetSatisfiesInv agenda) hrun

end Sys2Proof.Machine
end

section
/-! SUPPORT. Which elements each command may change, as one frame for every command, and what follows for a step;
the statements ValidBitsChangeOnlyBy, TablesChangeOnlyBy, RegistersChangeOnlyBy and StreamFlagsChangeOnlyBy. -/

namespace Sys2Proof.Machine

/-! ## What a command may change -/

/-- `s` with the elements that the evaluation of `i` may change taken from `t`, and with the commands that write
constants applied. A builder moves a valid bit in one direction only, so the bit is a conjunction or a
disjunction of the two (10_state.md R32, R33). -/
def commandFrame : Instr → State → State → State
  | .nop, s, _ => s
  | .srst, s, _ => softReset s
  | .clrerr, s, _ => clearErrorRecord s
  | .frqclr, s, _ => clearFrequencies s
  | .frqinc _, s, t => { s with freq := t.freq }
  | .bldlen, s, t =>
    { s with
      len := t.len, codesValid := s.codesValid && t.codesValid
      treeValid := s.treeValid && t.treeValid }
  | .bldcan, s, t =>
    { s with
      code := t.code, codesValid := s.codesValid || t.codesValid
      treeValid := s.treeValid && t.treeValid }
  | .bldtree, s, t =>
    { s with tree := t.tree, treeValid := s.treeValid || (s.codesValid && t.treeValid) }
  | .wrbits _, s, t => { s with wacc := t.wacc, wn := t.wn, outq := t.outq }
  | .wrclose, s, t => { s with wacc := t.wacc, wn := t.wn, outq := t.outq }
  | .encsym _, s, t => { s with wacc := t.wacc, wn := t.wn, outq := t.outq }
  | .rdbit, s, t =>
    { s with rbyte := t.rbyte, rn := t.rn, inq := t.inq, result := t.result, eos := t.eos }
  | .decsym, s, t => { s with rbyte := t.rbyte, rn := t.rn, inq := t.inq, result := t.result }
  | .rdreset, s, _ => emptyReader s

/-- A written bit stays within what the writing commands may change. -/
theorem writeBit_frame {s : State} (b : Bool) (t u : State)
    (ht : t = { s with wacc := t.wacc, wn := t.wn, outq := t.outq }) (h : writeBit b t = some u) :
    u = { s with wacc := u.wacc, wn := u.wn, outq := u.outq } := by
  obtain ⟨-, -, rfl⟩ | ⟨-, rfl⟩ := writeBit_cases h
  all_goals rw [ht]

/-- The evaluation of a command changes only what its frame lists. -/
theorem endingOf_frame (i : Instr) (s : State) : (endingOf i s).All fun t => t = commandFrame i s t := by
  cases i with
  | nop | srst | clrerr | frqclr | rdreset => rfl
  | frqinc sym => exact frqinc_all sym rfl rfl
  | bldlen => exact bldlen_all (by simp [commandFrame]) fun _ _ => by simp [commandFrame, State.invalidate]
  | bldcan => exact bldcan_all (by simp [commandFrame]) fun _ _ => by simp [commandFrame, State.codesBuilt]
  | bldtree =>
    have hkept : (s.treeValid || (s.codesValid && s.treeValid)) = s.treeValid := by
      cases s.treeValid <;> simp
    exact bldtree_all (by simp [commandFrame, hkept]) fun hvalid => by simp [commandFrame, State.treeBuilt, hvalid]
  | wrbits n => exact wrbits_all writeBit_frame rfl n
  | wrclose => exact closeWriter_all rfl fun _ _ => rfl
  | encsym sym => exact encsym_all writeBit_frame rfl sym
  | rdbit =>
    refine rdbit_all (fun b t u ht hread => ?_) rfl fun t v eos ht => ?_
    · rw [(readBit_bit hread).2, ht]; rfl
    · rw [ht]; rfl
  | decsym =>
    refine decsym_all (fun b t u ht hread => ?_) rfl fun t v ht => ?_
    · rw [(readBit_bit hread).2, ht]; rfl
    · rw [ht]; rfl

/-- A command that holds has its own state in its frame. -/
theorem commandFrame_self_of_hold {i : Instr} {s : State} (h : endingOf i s = .hold) : commandFrame i s s = s := by
  obtain ⟨n, rfl⟩ | ⟨sym, rfl⟩ | rfl | rfl | rfl := holding_command h <;> rfl

/-- A frame takes neither PENDING nor the error record from `t`. -/
theorem commandFrame_of_record (i : Instr) (s t : State) (pending : Option Word) (err : Bool) (errcode : Byte) :
    commandFrame i s { t with pending := pending, err := err, errcode := errcode } = commandFrame i s t := by
  cases i <;> rfl

/-- Settling an ending touches PENDING and the error record only. -/
theorem settle_frame (s : State) {r : Ending} {i : Instr} (hhold : r = .hold → s = commandFrame i s s)
    (hr : r.All fun t => t = commandFrame i s t) :
    settle s r = { commandFrame i s (settle s r) with
      pending := (settle s r).pending, err := (settle s r).err, errcode := (settle s r).errcode } := by
  cases r with
  | hold => rw [settle_hold, ← hhold rfl]
  | done u =>
    have hrecord := commandFrame_of_record i s u none u.err u.errcode
    rw [settle_done, hrecord, ← Ending.all_done.mp hr]
  | error e u =>
    have hrecord := commandFrame_of_record i s u none true (if u.err then u.errcode else e.number)
    rw [settle_error, recordError, hrecord, ← Ending.all_error.mp hr]

/-- A command changes PENDING, the error record, and what its frame lists. -/
theorem exec_frame {i : Instr} {s t : State} (h : exec i s = .next t) :
    t = { commandFrame i s t with pending := t.pending, err := t.err, errcode := t.errcode } := by
  rw [exec_eq_settle] at h
  cases h
  exact settle_frame s (fun hhold => (commandFrame_self_of_hold hhold).symm) (endingOf_frame i s)

/-- A command moves a valid bit only as its frame allows (10_state.md R32, R33). -/
theorem exec_validBits {i : Instr} {s t : State} (h : exec i s = .next t) :
    (s.codesValid = false → t.codesValid = true → i = .bldcan) ∧
    (s.treeValid = false → t.treeValid = true → i = .bldtree ∧ s.codesValid = true) ∧
    (s.codesValid = true → t.codesValid = false → i = .bldlen ∨ i = .srst) ∧
    (s.treeValid = true → t.treeValid = false → i = .bldlen ∨ i = .bldcan ∨ i = .srst) := by
  rw [exec_frame h]
  cases i <;> simp +contextual [commandFrame]

theorem exec_tables {i : Instr} {s t : State} (h : exec i s = .next t) :
    (t.freq ≠ s.freq → i = .frqclr ∨ ∃ sym, i = .frqinc sym) ∧ (t.len ≠ s.len → i = .bldlen) ∧
    (t.code ≠ s.code → i = .bldcan) ∧ (t.tree ≠ s.tree → i = .bldtree) := by
  rw [exec_frame h]
  cases i <;> simp [commandFrame]

theorem exec_registers {i : Instr} {s t : State} (h : exec i s = .next t) :
    (t.data ≠ s.data → i = .srst) ∧ (t.size ≠ s.size → i = .srst) ∧
    (t.result ≠ s.result → i = .rdbit ∨ i = .decsym ∨ i = .srst) := by
  rw [exec_frame h]
  cases i <;> simp [commandFrame]

theorem exec_streamFlags {i : Instr} {s t : State} (h : exec i s = .next t) :
    (t.eos ≠ s.eos → i = .rdbit ∨ i = .rdreset ∨ i = .srst) ∧ (t.inDrop = true → s.inDrop = true) ∧
    (s.inDrop = true → t.inDrop = false → i = .clrerr ∨ i = .srst) ∧
    (t.inClosed = true → s.inClosed = true) := by
  rw [exec_frame h]
  cases i <;> simp +contextual [commandFrame]

/-- A command leaves its word pending or empties PENDING. -/
theorem exec_pending {i : Instr} {s t : State} (h : exec i s = .next t) :
    t.pending = s.pending ∨ t.pending = none := by
  rw [exec_eq_settle] at h
  cases h
  cases endingOf i s with
  | hold => exact .inl rfl
  | done u => exact .inr rfl
  | error e u => exact .inr rfl

/-! ## The entries from SIZE on (41_huffman_build.md R122, R126) -/

/-- A table rebuilt below `n` keeps its entries from `n` on, those past its end included. -/
theorem read_tabulate_below_of_ge {w n i : Nat} (f : Nat → BitVec w) (t : Table w) (h : n ≤ i) :
    (Table.tabulate fun j => if j < n then f j else t.read j).read i = t.read i := by
  by_cases hi : i < 256
  · rw [Table.read_tabulate _ hi, if_neg (Nat.not_lt.mpr h)]
  · rw [Table.read_of_ge _ (Nat.not_lt.mp hi), Table.read_of_ge _ (Nat.not_lt.mp hi)]

theorem storeLengths_read_of_ge {n i : Nat} (lens : List (Nat × Nat)) (len : Table 8) (h : n ≤ i) :
    (storeLengths n lens len).read i = len.read i :=
  read_tabulate_below_of_ge _ len h

theorem storeCodes_read_of_ge {n i : Nat} (codes : List (Nat × Nat)) (code : Table 32) (h : n ≤ i) :
    (storeCodes n codes code).read i = code.read i :=
  read_tabulate_below_of_ge _ code h

/-- A property of LEN and CODE that holds before a command and where its evaluation ends holds after it. -/
theorem settle_lenCode {P : Table 8 → Table 32 → Prop} {s : State} {r : Ending} (hs : P s.len s.code)
    (hr : r.All fun t => P t.len t.code) : P (settle s r).len (settle s r).code := by
  cases r with
  | hold => exact hs
  | done t => exact hr
  | error e t => exact hr

theorem exec_bldlen_len_read {s t : State} (h : exec .bldlen s = .next t) {i : Nat} (hi : s.size ≤ i) :
    t.len.read i = s.len.read i := by
  rw [exec_bldlen] at h
  cases h
  exact settle_lenCode (P := fun len _ => len.read i = s.len.read i) rfl
    (bldlen_all rfl fun lens _ => storeLengths_read_of_ge lens s.len hi)

theorem exec_bldcan_code_read {s t : State} (h : exec .bldcan s = .next t) {i : Nat} (hi : s.size ≤ i) :
    t.code.read i = s.code.read i := by
  rw [exec_bldcan] at h
  cases h
  exact settle_lenCode (P := fun _ code => code.read i = s.code.read i) rfl
    (bldcan_all rfl fun codes _ => storeCodes_read_of_ge codes s.code hi)

/-! ## What a host write may change -/

namespace WriteEffect
variable {s t : State} {r : Reg} {v : Word}

theorem validBits (h : WriteEffect s r v t) :
    (t.codesValid = s.codesValid ∧ t.treeValid = s.treeValid) ∨
    (t.codesValid = false ∧ t.treeValid = false ∧ s.busy = false ∧
      (r = .ctrl ∧ 1 ≤ v.toNat % 512 ∧ v.toNat % 512 ≤ 256 ∨ ∃ i, r = .len i)) := by
  cases h with
  | sized _ hidle hlegal => exact .inr ⟨rfl, rfl, hidle, .inl ⟨rfl, hlegal⟩⟩
  | lenSet i _ hidle => exact .inr ⟨rfl, rfl, hidle, .inr ⟨i, rfl⟩⟩
  | _ => exact .inl ⟨rfl, rfl⟩

theorem freq (h : WriteEffect s r v t) : t.freq = s.freq ∨ s.busy = false ∧ ∃ i, r = .freq i := by
  cases h with
  | freqSet i _ hidle => exact .inr ⟨hidle, i, rfl⟩
  | _ => exact .inl rfl

theorem len (h : WriteEffect s r v t) : t.len = s.len ∨ s.busy = false ∧ ∃ i, r = .len i := by
  cases h with
  | lenSet i _ hidle => exact .inr ⟨hidle, i, rfl⟩
  | _ => exact .inl rfl

theorem code (h : WriteEffect s r v t) : t.code = s.code := by cases h <;> rfl

theorem tree (h : WriteEffect s r v t) : t.tree = s.tree := by cases h <;> rfl

theorem pending (h : WriteEffect s r v t) :
    t.pending = s.pending ∨ r = .cmd ∧ s.pending = none ∧ t.pending = some v := by
  cases h with
  | accepted _ hidle => exact .inr ⟨rfl, by simpa [State.busy] using hidle, rfl⟩
  | _ => exact .inl rfl

theorem data (h : WriteEffect s r v t) : t.data = s.data ∨ s.busy = false ∧ r = .data := by
  cases h with
  | stored _ hidle => exact .inr ⟨hidle, rfl⟩
  | _ => exact .inl rfl

theorem size (h : WriteEffect s r v t) : t.size = s.size ∨ s.busy = false ∧ r = .ctrl := by
  cases h with
  | sized _ hidle => exact .inr ⟨hidle, rfl⟩
  | _ => exact .inl rfl

theorem result (h : WriteEffect s r v t) : t.result = s.result := by cases h <;> rfl

theorem eos (h : WriteEffect s r v t) : t.eos = s.eos := by cases h <;> rfl

theorem inDrop (h : WriteEffect s r v t) : t.inDrop = s.inDrop ∨ r = .inData ∧ t.inDrop = true := by
  cases h with
  | dropped => exact .inr ⟨rfl, rfl⟩
  | _ => exact .inl rfl

theorem inClosed (h : WriteEffect s r v t) : t.inClosed = s.inClosed ∨ r = .inCtrl := by
  cases h with
  | closed => exact .inr rfl
  | _ => exact .inl rfl

end WriteEffect

/-! ## What a step may change -/

/-- A step that is neither a host write nor a command touches only PENDING, the error record, OUTQ, and the
model's own fields. -/
theorem step_quiet_or {s t : State} (h : step s = .next t) :
    t = { s with
      pending := t.pending, err := t.err, errcode := t.errcode, outq := t.outq, agenda := t.agenda
      readLog := t.readLog } ∨
    (∃ r v, s.hostWrites r v ∧ WriteEffect { s with agenda := s.agenda.tail } r v t) ∨
    (∃ i, s.executes i ∧ exec i { s with agenda := s.agenda.tail } = .next t) := by
  cases step_event h with
  | read r => exact .inl (by rw [readRegister_frame])
  | write r v _ hwrite heffect => exact .inr (.inl ⟨r, v, hwrite, heffect⟩)
  | idle => exact .inl rfl
  | illegal => exact .inl rfl
  | command i _ hexecutes hexec => exact .inr (.inr ⟨i, hexecutes, hexec⟩)

theorem step_pending {s t : State} (h : step s = .next t) :
    t.pending = s.pending ∨ (∃ v, s.hostWrites .cmd v ∧ s.pending = none ∧ t.pending = some v) ∨
    (s.engineHasTurn ∧ t.pending = none) := by
  cases step_event h with
  | read r => exact .inl (by rw [readRegister_frame])
  | write r v _ hwrite heffect =>
    obtain hsame | ⟨rfl, hempty, hfilled⟩ := heffect.pending
    · exact .inl hsame
    · exact .inr (.inl ⟨v, hwrite, hempty, hfilled⟩)
  | idle => exact .inl rfl
  | illegal hturn => exact .inr (.inr ⟨hturn, rfl⟩)
  | command i _ hexecutes hexec =>
    exact (exec_pending hexec).imp_right fun hempty => .inr ⟨hexecutes.2, hempty⟩

/-! ## The statements -/

/-- Settles O54: a write can only lower both bits, and a command moves them as its frame says. -/
theorem validBitsChangeOnlyBy : Obligations.ValidBitsChangeOnlyBy := by
  intro s t hstep
  obtain hquiet | ⟨r, v, hwrite, heffect⟩ | ⟨i, hexecutes, hexec⟩ := step_quiet_or hstep
  · rw [hquiet]
    simp +contextual
  · obtain ⟨hcodes, htree⟩ | ⟨hcodes, htree, hidle, ⟨rfl, hlegal⟩ | ⟨i, rfl⟩⟩ := heffect.validBits
    · rw [hcodes, htree]
      simp +contextual
    · have hcause : s.busy = false ∧ ∃ v, s.hostWrites .ctrl v ∧ 1 ≤ v.toNat % 512 ∧ v.toNat % 512 ≤ 256 :=
        ⟨hidle, v, hwrite, hlegal⟩
      simp [hcodes, htree, hcause]
    · have hcause : s.busy = false ∧ ∃ i v, s.hostWrites (.len i) v := ⟨hidle, i, v, hwrite⟩
      simp [hcodes, htree, hcause]
  · obtain ⟨hcodesRise, htreeRise, hcodesFall, htreeFall⟩ := exec_validBits hexec
    refine ⟨fun h0 h1 => ?_, fun h0 h1 => ?_, fun h1 h0 => ?_, fun h1 h0 => ?_⟩
    · exact hcodesRise h0 h1 ▸ hexecutes
    · obtain ⟨rfl, hvalid⟩ := htreeRise h0 h1
      exact ⟨hexecutes, hvalid⟩
    · obtain rfl | rfl := hcodesFall h1 h0
      · exact .inr (.inr (.inl hexecutes))
      · exact .inr (.inr (.inr hexecutes))
    · obtain rfl | rfl | rfl := htreeFall h1 h0
      · exact .inr (.inr (.inl hexecutes))
      · exact .inr (.inr (.inr (.inl hexecutes)))
      · exact .inr (.inr (.inr (.inr hexecutes)))

/-- Settles O55: a write changes its own table, a command the table in its frame, and the builders' stores keep
the entries from SIZE on. -/
theorem tablesChangeOnlyBy : Obligations.TablesChangeOnlyBy := by
  intro s t hstep
  obtain hquiet | ⟨r, v, hwrite, heffect⟩ | ⟨i, hexecutes, hexec⟩ := step_quiet_or hstep
  · rw [hquiet]
    simp
  · refine ⟨fun hne => ?_, fun hne => ?_, fun hne => absurd heffect.code hne,
      fun hne => absurd heffect.tree hne⟩
    · obtain ⟨hidle, i, rfl⟩ := heffect.freq.resolve_left hne
      exact .inr (.inr ⟨hidle, i, v, hwrite⟩)
    · obtain ⟨hidle, i, rfl⟩ := heffect.len.resolve_left hne
      exact .inr ⟨hidle, i, v, hwrite⟩
  · obtain ⟨hfreq, hlen, hcode, htree⟩ := exec_tables hexec
    refine ⟨fun hne => ?_, fun hne => ?_, fun hne => ?_, fun hne => ?_⟩
    · obtain rfl | ⟨sym, rfl⟩ := hfreq hne
      · exact .inl hexecutes
      · exact .inr (.inl ⟨sym, hexecutes⟩)
    · obtain rfl := hlen hne
      exact .inl ⟨hexecutes, fun _ hi => exec_bldlen_len_read hexec hi⟩
    · obtain rfl := hcode hne
      exact ⟨hexecutes, fun _ hi => exec_bldcan_code_read hexec hi⟩
    · exact htree hne ▸ hexecutes

/-- Settles O56: PENDING by its own case analysis of the step, the registers by the frames. -/
theorem registersChangeOnlyBy : Obligations.RegistersChangeOnlyBy := by
  intro s t hstep
  refine ⟨(step_pending hstep).resolve_left, ?_⟩
  obtain hquiet | ⟨r, v, hwrite, heffect⟩ | ⟨i, hexecutes, hexec⟩ := step_quiet_or hstep
  · rw [hquiet]
    simp
  · refine ⟨fun hne => ?_, fun hne => ?_, fun hne => absurd heffect.result hne⟩
    · obtain ⟨hidle, rfl⟩ := heffect.data.resolve_left hne
      exact .inl ⟨hidle, v, hwrite⟩
    · obtain ⟨hidle, rfl⟩ := heffect.size.resolve_left hne
      exact .inl ⟨hidle, v, hwrite⟩
  · obtain ⟨hdata, hsize, hresult⟩ := exec_registers hexec
    refine ⟨fun hne => .inr (hdata hne ▸ hexecutes), fun hne => .inr (hsize hne ▸ hexecutes), fun hne => ?_⟩
    obtain rfl | rfl | rfl := hresult hne
    · exact .inl hexecutes
    · exact .inr (.inl hexecutes)
    · exact .inr (.inr hexecutes)

/-- Settles O58: only the two input registers' writes raise a flag, and a command changes those in its frame. -/
theorem streamFlagsChangeOnlyBy : Obligations.StreamFlagsChangeOnlyBy := by
  intro s t hstep
  obtain hquiet | ⟨r, v, hwrite, heffect⟩ | ⟨i, hexecutes, hexec⟩ := step_quiet_or hstep
  · rw [hquiet]
    simp +contextual
  · refine ⟨fun hne => absurd heffect.eos hne, fun h0 h1 => ?_, fun h1 h0 => ?_, fun h0 h1 => ?_⟩
    · obtain hsame | ⟨rfl, -⟩ := heffect.inDrop
      · exact nomatch h0.symm.trans (hsame.symm.trans h1)
      · exact ⟨v, hwrite⟩
    · obtain hsame | ⟨-, hrise⟩ := heffect.inDrop
      · exact nomatch h0.symm.trans (hsame.trans h1)
      · exact nomatch h0.symm.trans hrise
    · obtain hsame | rfl := heffect.inClosed
      · exact nomatch h0.symm.trans (hsame.symm.trans h1)
      · exact ⟨v, hwrite⟩
  · obtain ⟨heos, hdropRise, hdropFall, hclosedRise⟩ := exec_streamFlags hexec
    refine ⟨fun hne => ?_, fun h0 h1 => ?_, fun h1 h0 => ?_, fun h0 h1 => ?_⟩
    · obtain rfl | rfl | rfl := heos hne
      · exact .inl hexecutes
      · exact .inr (.inl hexecutes)
      · exact .inr (.inr hexecutes)
    · exact nomatch h0.symm.trans (hdropRise h1)
    · obtain rfl | rfl := hdropFall h1 h0
      · exact .inl hexecutes
      · exact .inr hexecutes
    · exact nomatch h0.symm.trans (hclosedRise h1)

end Sys2Proof.Machine
end

section
/-! SUPPORT. The STATUS register bit by bit (10_state.md R26, R27, R34), and the statements ResetValues and
StatusLayout. -/

namespace Sys2Proof.Machine

/-! ## The fields of STATUS -/

/-- Bit 0 of a word with one bit put below it is that bit. -/
theorem getLsbD_append_ofBool_zero {w : Nat} (x : BitVec w) (b : Bool) : (x ++ BitVec.ofBool b).getLsbD 0 = b := by
  simp [BitVec.getElem_append]

/-- The other bits move up by one. -/
theorem getLsbD_append_ofBool_succ {w : Nat} (x : BitVec w) (b : Bool) (k : Nat) :
    (x ++ BitVec.ofBool b).getLsbD (k + 1) = x.getLsbD k := by
  simp [BitVec.getLsbD_append]

/-- A field that begins above the low part is a field of the high part. -/
theorem extractLsb'_append_above {v w : Nat} (x : BitVec v) (y : BitVec w) (k n : Nat) :
    (x ++ y).extractLsb' (w + k) n = x.extractLsb' k n := by
  rw [BitVec.extractLsb'_append_eq_of_le (Nat.le_add_right w k), Nat.add_sub_cancel_left]

/-- The eight low bits of STATUS: seven flags, and a reserved bit that reads 0. -/
theorem status_flags (s : State) :
    s.status.getLsbD 0 = s.pending.isSome ∧ s.status.getLsbD 1 = s.err ∧ s.status.getLsbD 2 = s.eos ∧
    s.status.getLsbD 3 = s.inClosed ∧ s.status.getLsbD 4 = s.inDrop ∧ s.status.getLsbD 5 = s.codesValid ∧
    s.status.getLsbD 6 = s.treeValid ∧ s.status.getLsbD 7 = false := by
  have hreserved : (0#1) = BitVec.ofBool false := rfl
  simp only [State.status, State.busy, hreserved, getLsbD_append_ofBool_zero, getLsbD_append_ofBool_succ,
    and_self]

/-- What lies above the eight low bits of STATUS. -/
theorem status_extract_above_flags (s : State) (k n : Nat) :
    s.status.extractLsb' (8 + k) n =
      (0#8 ++ BitVec.ofNat 4 s.rn ++ BitVec.ofNat 4 s.wn ++ s.errcode).extractLsb' k n := by
  have hstart : 8 + k = 1 + (1 + (1 + (1 + (1 + (1 + (1 + (1 + k))))))) := by omega
  rw [hstart, State.status]
  iterate 8 rw [extractLsb'_append_above]

/-- The four fields of STATUS above its flags. -/
theorem status_fields (s : State) :
    s.status.extractLsb' 8 8 = s.errcode ∧ s.status.extractLsb' 16 4 = BitVec.ofNat 4 s.wn ∧
    s.status.extractLsb' 20 4 = BitVec.ofNat 4 s.rn ∧ s.status.extractLsb' 24 8 = 0 := by
  refine ⟨?_, ?_, ?_, ?_⟩
  · rw [status_extract_above_flags s 0 8, BitVec.extractLsb'_append_eq_right]
  · rw [status_extract_above_flags s 8 4, extractLsb'_append_above _ _ 0 4, BitVec.extractLsb'_append_eq_right]
  · rw [status_extract_above_flags s 12 4, extractLsb'_append_above _ _ 4 4, extractLsb'_append_above _ _ 0 4,
      BitVec.extractLsb'_append_eq_right]
  · rw [status_extract_above_flags s 16 8, extractLsb'_append_above _ _ 8 8, extractLsb'_append_above _ _ 4 8,
      extractLsb'_append_above _ _ 0 8, BitVec.extractLsb'_eq_self]
    rfl

/-- Four bits show every count below 16. -/
theorem ofNat_four_toNat {n : Nat} (h : n ≤ 8) : (BitVec.ofNat 4 n).toNat = n := by
  rw [BitVec.toNat_ofNat]
  omega

/-! ## Host turns -/

theorem step_of_hostWrites {s : State} {r : Reg} {v : Word} (h : s.hostWrites r v) :
    step s = .next (writeRegister r v { s with agenda := s.agenda.tail }) := by
  obtain ⟨p, rest, hagenda, hcheck⟩ := h
  rw [step_of_agenda_host hagenda, hagenda, List.tail_cons]
  simp [hostAccess, hcheck]

theorem step_of_hostReads {s : State} {p : Place} {r : Reg} {rest : List Turn}
    (hagenda : s.agenda = .host (.read .w32 p) :: rest) (hcheck : checkAccess .w32 p = .ok r) :
    step s = .next (readRegister r { s with agenda := rest }) := by
  rw [step_of_agenda_host hagenda]
  simp [hostAccess, hcheck]

/-! ## The statements -/

/-- Settles O10: the registers that STATUS, CTRL and FIFO_STAT show at reset are evaluated. -/
theorem resetValues : Obligations.ResetValues := by
  have hstatus : State.reset.status = 0 := by decide
  have hctrl : State.reset.ctrl = 0x00000100 := by decide
  have hfifo : State.reset.fifoStat = 0 := by
    have hempty : countField 0 = 0 := countField_of_lt (by decide)
    exact congrArg₂ (· ++ ·) hempty hempty
  exact ⟨rfl, rfl, rfl, rfl, rfl, rfl, rfl, rfl, rfl, rfl, rfl, rfl, rfl, rfl, rfl, rfl, rfl, hstatus, hctrl,
    hfifo⟩

/-- Settles O44, from the flags, the fields, and the equations of a host turn. -/
theorem statusLayout : Obligations.StatusLayout := by
  refine ⟨rfl, fun s v hwrite => step_of_hostWrites hwrite, fun s t p rest hagenda hcheck hstep => ?_,
    fun s => ?_⟩
  · rw [step_of_hostReads hagenda hcheck] at hstep
    cases hstep
    rfl
  · obtain ⟨hbusy, herr, heos, hclosed, hdrop, hcodes, htree, hreserved⟩ := status_flags s
    obtain ⟨herrcode, hwn, hrn, hzero⟩ := status_fields s
    refine ⟨hbusy, herr, heos, hclosed, hdrop, hcodes, htree, hreserved, herrcode, fun hle => ?_, fun hle => ?_,
      hzero⟩
    · rw [hwn, ofNat_four_toNat (by omega)]
    · rw [hrn, ofNat_four_toNat hle]

end Sys2Proof.Machine
end

section
/-! SUPPORT. The register map read backwards (20_memory.md R61, R62), the places of the window (R60), and the
statements RegisterMapRoundTrip, BusFaultsExactlyWhereListed and BusAddressesAreBasePlusOffset. -/

namespace Sys2Proof.Machine

/-! ## The register an offset holds (20_memory.md R61, R62) -/

/-- Below 0x400 an offset holds the register whose offset it is, or it is unmapped; the aligned unmapped ones
begin at 0x02C. -/
theorem controlRegAt_cases (n : Nat) :
    (∃ r, controlRegAt n = .ok r ∧ r.offset.toNat = n ∧ n < 0x02C) ∨
    (controlRegAt n = .error .unmapped ∧ (n % 4 = 0 → 0x02C ≤ n)) := by
  unfold controlRegAt
  split
  any_goals exact .inl ⟨_, rfl, rfl, by decide⟩
  refine .inr ⟨rfl, fun halign => ?_⟩
  simp only [imp_false] at *
  omega

/-- An aligned offset of 0x400 or more is the offset of the table entry found there. -/
theorem tableRegAt_offset_toNat {n : Nat} (halign : n % 4 = 0) (hge : 0x400 ≤ n) (hlt : n < 0x1000) :
    (tableRegAt n).offset.toNat = n := by
  have hentry : (Fin.ofNat 256 (n / 4)).val = n / 4 % 256 := rfl
  simp only [tableRegAt]
  split
  · rw [freq_offset_toNat, hentry]
    omega
  · split
    · rw [len_offset_toNat, hentry]
      omega
    · rw [code_offset_toNat, hentry]
      omega

/-- An offset holds the register whose offset it is, or it is one of those R61 lists. -/
theorem regAt_cases (off : BitVec 12) :
    (∃ r, regAt off = .ok r ∧ r.offset = off ∧ off.toNat % 4 = 0 ∧
      ¬ (0x02C ≤ off.toNat ∧ off.toNat ≤ 0x3FF)) ∨
    (∃ why, regAt off = .error why ∧
      (off.toNat % 4 ≠ 0 ∨ 0x02C ≤ off.toNat ∧ off.toNat ≤ 0x3FF)) := by
  by_cases halign : off.toNat % 4 = 0
  · by_cases hlow : off.toNat < 0x400
    · have hmap : regAt off = controlRegAt off.toNat := by simp [regAt, halign, hlow]
      obtain ⟨r, hr, hoff, hlt⟩ | ⟨hunmapped, hge⟩ := controlRegAt_cases off.toNat
      · exact .inl ⟨r, hmap.trans hr, BitVec.eq_of_toNat_eq hoff, halign, by omega⟩
      · exact .inr ⟨_, hmap.trans hunmapped, .inr ⟨hge halign, by omega⟩⟩
    · have hge : 0x400 ≤ off.toNat := Nat.not_lt.mp hlow
      have hoff : (tableRegAt off.toNat).offset.toNat = off.toNat :=
        tableRegAt_offset_toNat halign hge off.isLt
      exact .inl ⟨_, regAt_of_table halign hge, BitVec.eq_of_toNat_eq hoff, halign, by omega⟩
  · exact .inr ⟨.misaligned, by simp [regAt, halign], .inl halign⟩

/-- An offset holds no register but the one whose offset it is. -/
theorem offset_of_regAt {off : BitVec 12} {r : Reg} (h : regAt off = .ok r) : r.offset = off := by
  obtain ⟨r', hr', hoff, -⟩ | ⟨why, hwhy, -⟩ := regAt_cases off
  · obtain rfl : r' = r := Except.ok.inj (hr'.symm.trans h)
    exact hoff
  · exact nomatch hwhy.symm.trans h

/-! ## The checks of an access (20_memory.md R60, R61) -/

theorem hostAccess_of_checkAccess_ok {w : Width} {p : Place} {r : Reg} (h : checkAccess w p = .ok r) (v : Word)
    (s : State) :
    hostAccess (.read w p) s = .next (readRegister r s) ∧
    hostAccess (.write w p v) s = .next (writeRegister r v s) := by
  simp [hostAccess, h]

theorem hostAccess_of_checkAccess_error {w : Width} {p : Place} {f : Fault} (h : checkAccess w p = .error f)
    (v : Word) (s : State) :
    hostAccess (.read w p) s = .fault f ∧ hostAccess (.write w p v) s = .fault f := by
  simp [hostAccess, h]

/-- An access of a window offset passes the checks, or ends in busFault for one of the reasons of R61. -/
theorem checkAccess_window_cases (w : Width) (off : BitVec 12) :
    (∃ r, checkAccess w (.offset off) = .ok r ∧ w = .w32 ∧ off.toNat % 4 = 0 ∧
      ¬ (0x02C ≤ off.toNat ∧ off.toNat ≤ 0x3FF)) ∨
    (∃ why, checkAccess w (.offset off) = .error (.busFault why) ∧
      (w ≠ .w32 ∨ off.toNat % 4 ≠ 0 ∨ 0x02C ≤ off.toNat ∧ off.toNat ≤ 0x3FF)) := by
  by_cases hw : w = .w32
  · obtain ⟨r, hr, -, hserved⟩ | ⟨why, hwhy, hlisted⟩ := regAt_cases off
    · exact .inl ⟨r, by simp [checkAccess, Place.resolve, hw, hr], hw, hserved⟩
    · exact .inr ⟨why, by simp [checkAccess, Place.resolve, hw, hwhy], .inr hlisted⟩
  · exact .inr ⟨.width, by simp [checkAccess, Place.resolve, hw], .inl hw⟩

/-- The checks see of a place only the offset it resolves to. -/
theorem checkAccess_congr {p q : Place} (h : p.resolve = q.resolve) (w : Width) :
    checkAccess w p = checkAccess w q := by
  simp only [checkAccess, h]

theorem hostAccess_congr {p q : Place} (h : p.resolve = q.resolve) (w : Width) (v : Word) (s : State) :
    hostAccess (.read w p) s = hostAccess (.read w q) s ∧
    hostAccess (.write w p v) s = hostAccess (.write w q v) s := by
  simp only [hostAccess, checkAccess_congr h w, and_self]

theorem resolve_bus_base_add (off : BitVec 12) :
    (Place.bus (Config.base + off.toNat)).resolve = (Place.offset off).resolve := by
  have hinside : Config.base ≤ Config.base + off.toNat ∧ Config.base + off.toNat < Config.base + 4096 :=
    ⟨Nat.le_add_right _ _, Nat.add_lt_add_left off.isLt _⟩
  simp [Place.resolve, busOffset, hinside]

theorem resolve_bus_outside {addr : Nat} (h : addr < Config.base ∨ Config.base + 0xFFF < addr) :
    (Place.bus addr).resolve = .error .outsideWindow := by
  have houtside : ¬ (Config.base ≤ addr ∧ addr < Config.base + 4096) := by omega
  simp [Place.resolve, busOffset, houtside]

/-! ## The statements -/

/-- Settles O41: the tables' offsets by arithmetic, and the two directions of the register map. -/
theorem registerMapRoundTrip : Obligations.RegisterMapRoundTrip :=
  ⟨rfl, rfl, rfl, rfl, rfl, rfl, rfl, rfl, rfl, rfl, rfl,
    fun i => ⟨freq_offset_toNat i, len_offset_toNat i, code_offset_toNat i⟩,
    regAt_offset, fun _ _ => offset_of_regAt⟩

/-- Settles O42: the checks either find a register, for none of the listed reasons, or fail for one of them. -/
theorem busFaultsExactlyWhereListed : Obligations.BusFaultsExactlyWhereListed := by
  intro w off v s
  obtain ⟨r, hcheck, hw, halign, hmapped⟩ | ⟨why, hcheck, hlisted⟩ := checkAccess_window_cases w off
  · obtain ⟨hread, hwrite⟩ := hostAccess_of_checkAccess_ok hcheck v s
    refine ⟨?_, fun _ _ _ => ⟨⟨_, hread⟩, _, hwrite⟩⟩
    rintro (hwidth | hmisaligned | hunmapped)
    · exact absurd hw hwidth
    · exact absurd halign hmisaligned
    · exact absurd hunmapped hmapped
  · obtain ⟨hread, hwrite⟩ := hostAccess_of_checkAccess_error hcheck v s
    refine ⟨fun _ => ⟨⟨why, hread⟩, why, hwrite⟩, fun hw halign hmapped => ?_⟩
    obtain hwidth | hmisaligned | hunmapped := hlisted
    · exact absurd hw hwidth
    · exact absurd halign hmisaligned
    · exact absurd hunmapped hmapped

/-- Settles O43: a bus address in the window resolves to its offset, and one outside resolves to none. -/
theorem busAddressesAreBasePlusOffset : Obligations.BusAddressesAreBasePlusOffset := by
  intro w v s
  refine ⟨fun off => hostAccess_congr (resolve_bus_base_add off) w v s, fun addr houtside => ?_⟩
  have hcheck : checkAccess w (.bus addr) = .error .outsideWindow := by
    simp only [checkAccess, resolve_bus_outside houtside]
  exact hostAccess_of_checkAccess_error hcheck v s

end Sys2Proof.Machine
end

section
/-! SUPPORT. What a host read returns and what it changes (20_memory.md R63, R68), the fields of FIFO_STAT and CTRL
(10_state.md R24, R36), and the statements FifoStatAndCtrlLayout, ReadsReturnTheRegister and OutDataPops. -/

namespace Sys2Proof.Machine

/-! ## FIFO_STAT and CTRL (10_state.md R24, R36, 20_memory.md R63) -/

theorem fifoStat_inCount (s : State) : s.fifoStat.extractLsb' 0 16 = countField s.inq.length :=
  BitVec.extractLsb'_append_eq_right

theorem fifoStat_outCount (s : State) : s.fifoStat.extractLsb' 16 16 = countField s.outq.length := by
  rw [State.fifoStat, extractLsb'_append_above _ _ 0 16, BitVec.extractLsb'_eq_self]

theorem countField_toNat {n : Nat} (h : n < 65536) : (countField n).toNat = n := by
  rw [countField_of_lt h, BitVec.toNat_ofNat, Nat.mod_eq_of_lt h]

theorem fifoStatRead_toNat {s : State} (h : s.fifoCounts < 2 ^ 32) : s.fifoStatRead.toNat = s.fifoCounts := by
  rw [State.fifoStatRead, if_pos h, BitVec.toNat_ofNat, Nat.mod_eq_of_lt h]

theorem fifoStatRead_of_ge {s : State} (h : 2 ^ 32 ≤ s.fifoCounts) : s.fifoStatRead = s.fifoStat :=
  if_neg (Nat.not_lt.mpr h)

/-- With short FIFOs the number of R63 is the register's. -/
theorem fifoStat_toNat {s : State} (hout : s.outq.length < 65536) (hin : s.inq.length < 65536) :
    s.fifoStat.toNat = s.fifoCounts := by
  rw [State.fifoStat, BitVec.toNat_append, countField_toNat hout, countField_toNat hin, State.fifoCounts]

theorem fifoStatRead_of_short {s : State} (hout : s.outq.length < 65536) (hin : s.inq.length < 65536) :
    s.fifoStatRead = s.fifoStat := by
  have hcounts : s.fifoStat.toNat = s.fifoCounts := fifoStat_toNat hout hin
  have hfits : s.fifoCounts < 2 ^ 32 := hcounts ▸ s.fifoStat.isLt
  exact BitVec.eq_of_toNat_eq ((fifoStatRead_toNat hfits).trans hcounts.symm)

theorem ctrl_toNat {s : State} (h : s.size ≤ 256) : s.ctrl.toNat = s.size := by
  rw [State.ctrl, BitVec.toNat_ofNat]
  omega

/-- SIZE fills bits 8:0 of CTRL, and the bits above are 0. -/
theorem ctrl_fields {s : State} (h : s.size ≤ 256) :
    (s.ctrl.extractLsb' 0 9).toNat = s.size ∧ s.ctrl.extractLsb' 9 23 = 0 := by
  refine ⟨?_, BitVec.eq_of_toNat_eq ?_⟩
  · rw [BitVec.extractLsb'_toNat, ctrl_toNat h, Nat.shiftRight_zero]
    omega
  · have hsmall : s.size < 2 ^ 9 := by omega
    rw [BitVec.extractLsb'_toNat, ctrl_toNat h, Nat.shiftRight_eq_div_pow, Nat.div_eq_of_lt hsmall]
    rfl

/-! ## Reads -/

/-- A read of any register but OUT_DATA only adds the register's value to the read log. -/
theorem readRegister_of_ne_outData {r : Reg} (h : r ≠ .outData) (s : State) :
    readRegister r s = { s with readLog := s.readLog ++ [readValue r s] } := by
  cases r with
  | outData => exact absurd rfl h
  | _ => rfl

theorem readValue_withAgenda (r : Reg) (s : State) (agenda : List Turn) :
    readValue r { s with agenda := agenda } = readValue r s := by
  cases r <;> rfl

/-- A host turn that reads a register other than OUT_DATA. -/
theorem step_of_read_offset {s : State} {r : Reg} {rest : List Turn}
    (hagenda : s.agenda = .host (.read .w32 (.offset r.offset)) :: rest) (hne : r ≠ .outData) :
    step s = .next { s with agenda := rest, readLog := s.readLog ++ [readValue r s] } := by
  rw [step_of_hostReads hagenda (checkAccess_offset r), readRegister_of_ne_outData hne, readValue_withAgenda]

/-- OUT_DATA shows the oldest output byte below a set bit 8. -/
theorem outDataValue_cons {s : State} {b : Byte} {bs : List Byte} (h : s.outq = b :: bs) :
    outDataValue s = BitVec.ofNat 32 (256 + b.toNat) := by
  have hdisjoint : 256 + b.toNat = 256 ||| b.toNat := Nat.two_pow_add_eq_or_of_lt b.isLt 1
  have hbyte : b.toNat < 2 ^ 32 := b.isLt.trans (by decide)
  have hsum : 256 + b.toNat < 2 ^ 32 := (Nat.add_lt_add_left b.isLt 256).trans (by decide)
  simp only [outDataValue, h]
  apply BitVec.eq_of_toNat_eq
  rw [BitVec.toNat_or, BitVec.toNat_setWidth, Nat.mod_eq_of_lt hbyte, BitVec.toNat_ofNat, Nat.mod_eq_of_lt hsum,
    hdisjoint]
  rfl

theorem outDataValue_nil {s : State} (h : s.outq = []) : outDataValue s = 0 := by
  simp only [outDataValue, h]

/-- A host turn that reads OUT_DATA. -/
theorem step_of_read_outData {s : State} {rest : List Turn}
    (hagenda : s.agenda = .host (.read .w32 (.offset 0x024)) :: rest) :
    step s = .next { s with
      agenda := rest, outq := s.outq.tail, readLog := s.readLog ++ [outDataValue s] } := by
  rw [step_of_hostReads hagenda (checkAccess_offset .outData)]
  rfl

/-- LEN reads zero-extended. -/
theorem readValue_len_toNat (i : Fin 256) (s : State) : (readValue (.len i) s).toNat = s.lenAt i.val := by
  simp only [readValue, State.lenAt, BitVec.toNat_setWidth]
  omega

/-! ## The statements -/

/-- Settles O45, from the fields of the registers and the value read in each range of the counts. -/
theorem fifoStatAndCtrlLayout : Obligations.FifoStatAndCtrlLayout := by
  refine ⟨rfl, rfl, fun s hin => ?_, fun s hout => ?_, fun s hfits => fifoStatRead_toNat hfits, fun s => ?_,
    fun s => ctrl_fields⟩
  · rw [fifoStat_inCount, countField_toNat hin]
  · rw [fifoStat_outCount, countField_toNat hout]
  · rintro (⟨hout, hin⟩ | hwide)
    · exact fifoStatRead_of_short hout hin
    · exact fifoStatRead_of_ge hwide

/-- Settles O46: none of the registers listed is OUT_DATA, and `readValue` gives each its listed value. -/
theorem readsReturnTheRegister : Obligations.ReadsReturnTheRegister := by
  intro s rest r v hvalue hagenda
  have hread : r ≠ .outData ∧ readValue r s = v := by
    obtain ⟨rfl, rfl⟩ | ⟨rfl, rfl⟩ | ⟨rfl, rfl⟩ | ⟨rfl, rfl⟩ | ⟨rfl | rfl | rfl, rfl⟩ | ⟨rfl, rfl⟩ | ⟨rfl, rfl⟩ |
      ⟨rfl, hfits, hv⟩ | ⟨rfl, hwide, rfl⟩ | ⟨i, rfl, rfl⟩ | ⟨i, rfl, hv⟩ | ⟨i, rfl, rfl⟩ := hvalue
    any_goals exact ⟨nofun, rfl⟩
    · exact ⟨nofun, BitVec.eq_of_toNat_eq ((fifoStatRead_toNat hfits).trans hv.symm)⟩
    · exact ⟨nofun, fifoStatRead_of_ge hwide⟩
    · exact ⟨nofun, BitVec.eq_of_toNat_eq ((readValue_len_toNat i s).trans hv.symm)⟩
  obtain ⟨hne, rfl⟩ := hread
  exact step_of_read_offset hagenda hne

/-- Settles O47: OUT_DATA by whether OUTQ is empty, the other registers by their frame. -/
theorem outDataPops : Obligations.OutDataPops := by
  refine ⟨fun s rest hagenda => ?_, fun s t r hreads hne hstep => ?_⟩
  · rw [step_of_read_outData hagenda]
    refine ⟨fun hempty => ?_, fun b bs hcons => ?_⟩
    · rw [outDataValue_nil hempty, hempty, List.tail_nil]
    · rw [outDataValue_cons hcons, hcons, List.tail_cons]
  · obtain ⟨p, rest, hagenda, hcheck⟩ := hreads
    rw [step_of_hostReads hagenda hcheck, readRegister_of_ne_outData hne] at hstep
    cases hstep
    rfl

end Sys2Proof.Machine
end

section
/-! SUPPORT. What a host write does to each register, in each case of its rule (20_memory.md R64 to R67, R69), and
the statements InCtrlWriteRule, CmdWriteRule, BusyWritesAreDropped, IdleWritesTakeEffect, ReadOnlyWritesAreIgnored
and InDataWriteRule. -/

namespace Sys2Proof.Machine

/-! ## A write that a pending command bars (20_memory.md R64) -/

theorem unlessBusy_of_busy {s : State} (t : State) (h : s.busy = true) :
    unlessBusy t s = recordError .writeBusy s :=
  if_pos h

theorem unlessBusy_of_idle {s : State} (t : State) (h : s.busy = false) : unlessBusy t s = t := by
  simp [unlessBusy, h]

/-- A write of one of the four registers that only an idle engine serves is barred while BUSY. -/
theorem writeRegister_of_busy {r : Reg} (v : Word) {s : State}
    (hregister : r = .ctrl ∨ r = .data ∨ (∃ i, r = .freq i) ∨ ∃ i, r = .len i) (h : s.busy = true) :
    writeRegister r v s = recordError .writeBusy s := by
  obtain rfl | rfl | ⟨i, rfl⟩ | ⟨i, rfl⟩ := hregister
  all_goals exact unlessBusy_of_busy _ h

/-- An idle engine lets the four writes through. -/
theorem writeRegister_of_idle (v : Word) {s : State} (h : s.busy = false) :
    writeRegister .ctrl v s = writeSize v s ∧ writeRegister .data v s = { s with data := v } ∧
    (∀ i, writeRegister (.freq i) v s = { s with freq := s.freq.write i.val v }) ∧
    ∀ i, writeRegister (.len i) v s = writeLen i.val v s :=
  ⟨unlessBusy_of_idle _ h, unlessBusy_of_idle _ h, fun _ => unlessBusy_of_idle _ h,
    fun _ => unlessBusy_of_idle _ h⟩

/-! ## CMD (20_memory.md R65) -/

theorem acceptCmd_of_busy (v : Word) {s : State} (h : s.busy = true) : acceptCmd v s = recordError .cmdBusy s :=
  if_pos h

theorem acceptCmd_of_err {v : Word} {s : State} (hidle : s.busy = false) (herr : s.err = true)
    (hsrst : v ≠ 0x00000001) (hclrerr : v ≠ 0x00000002) : acceptCmd v s = s := by
  have hdrop : (s.err && v != 0x00000001 && v != 0x00000002) = true := by
    rw [herr, bne_iff_ne.mpr hsrst, bne_iff_ne.mpr hclrerr]
    rfl
  rw [acceptCmd, if_neg (Bool.eq_false_iff.mp hidle), if_pos hdrop]

theorem acceptCmd_of_accepted {v : Word} {s : State} (hidle : s.busy = false)
    (h : s.err = false ∨ v = 0x00000001 ∨ v = 0x00000002) : acceptCmd v s = { s with pending := some v } := by
  obtain herr | rfl | rfl := h
  · simp [acceptCmd, hidle, herr]
  · simp [acceptCmd, hidle]
  · simp [acceptCmd, hidle]

/-- A pending word that decodes to no command fails with E_ILLEGAL (30_encoding.md R93). -/
theorem step_of_illegal {s : State} {v : Word} {e : Illegal} (hdecode : decode v = .error e)
    (hpending : s.pending = some v) (hturn : s.engineHasTurn) :
    step s = .next ({ s with agenda := s.agenda.tail }.failed 0x01) := by
  rw [step_of_engineHasTurn hturn]
  simp only [engineTurn, hpending, runWord, hdecode]
  rfl

/-! ## CTRL (10_state.md R24) -/

theorem extract_size_toNat (v : Word) : (v.extractLsb' 0 9).toNat = v.toNat % 512 := by
  rw [BitVec.extractLsb'_toNat, Nat.shiftRight_zero]

theorem writeSize_of_legal {v : Word} (s : State) (hge : 1 ≤ (v.extractLsb' 0 9).toNat)
    (hle : (v.extractLsb' 0 9).toNat ≤ 256) :
    writeSize v s = { s with
      size := (v.extractLsb' 0 9).toNat, codesValid := false, treeValid := false } := by
  rw [extract_size_toNat] at *
  exact if_pos ⟨hge, hle⟩

theorem writeSize_of_illegal {v : Word} (s : State)
    (h : (v.extractLsb' 0 9).toNat = 0 ∨ 256 < (v.extractLsb' 0 9).toNat) : writeSize v s = s := by
  rw [extract_size_toNat] at h
  exact if_neg (by omega)

/-! ## IN_DATA and IN_CTRL (20_memory.md R66, R67) -/

theorem pushIn_of_barred (v : Word) {s : State} (h : s.inClosed = true ∨ s.inq.length = Config.inDepth) :
    pushIn v s = { s with inDrop := true } :=
  if_pos h

theorem pushIn_of_room (v : Word) {s : State} (hopen : s.inClosed = false) (hroom : s.inq.length ≠ Config.inDepth) :
    pushIn v s = { s with inq := s.inq ++ [v.extractLsb' 0 8] } := by
  simp [pushIn, hopen, hroom, BitVec.setWidth_eq_extractLsb']

theorem closeInput_of_set {v : Word} (s : State) (h : v.getLsbD 0 = true) :
    closeInput v s = { s with inClosed := true } :=
  if_pos h

theorem closeInput_of_clear {v : Word} (s : State) (h : v.getLsbD 0 = false) : closeInput v s = s :=
  if_neg (Bool.eq_false_iff.mp h)

/-- No host write reopens the input. -/
theorem WriteEffect.inClosed_kept {s t : State} {r : Reg} {v : Word} (h : WriteEffect s r v t)
    (hclosed : s.inClosed = true) : t.inClosed = true := by
  cases h with
  | closed => rfl
  | _ => exact hclosed

/-- Of the commands only RDRESET and SRST reopen the input. -/
theorem exec_inClosed_fall {i : Instr} {s t : State} (h : exec i s = .next t) (hclosed : s.inClosed = true)
    (hopen : t.inClosed = false) : i = .rdreset ∨ i = .srst := by
  rw [exec_frame h] at hopen
  cases i with
  | rdreset => exact .inl rfl
  | srst => exact .inr rfl
  | _ => exact nomatch hclosed.symm.trans hopen

/-! ## The statements -/

/-- Settles O53: a write by the value of bit 0; and of the events of a step only a command can reopen the input. -/
theorem inCtrlWriteRule : Obligations.InCtrlWriteRule := by
  refine ⟨fun s v hwrite => ?_, fun s t hstep hclosed hopen => ?_⟩
  · rw [step_of_hostWrites hwrite]
    exact ⟨fun hset => congrArg _ (closeInput_of_set _ hset),
      fun hclear => congrArg _ (closeInput_of_clear _ hclear)⟩
  · obtain hquiet | ⟨r, v, -, heffect⟩ | ⟨i, hexecutes, hexec⟩ := step_quiet_or hstep
    · rw [hquiet] at hopen
      exact nomatch hclosed.symm.trans hopen
    · exact nomatch (heffect.inClosed_kept hclosed).symm.trans hopen
    · obtain rfl | rfl := exec_inClosed_fall hexec hclosed hopen
      · exact .inl hexecutes
      · exact .inr hexecutes

/-- Settles O48: the two words are decoded, and the three branches of `acceptCmd` are the three clauses. -/
theorem cmdWriteRule : Obligations.CmdWriteRule := by
  refine ⟨rfl, rfl, fun s v e => step_of_illegal, fun s v hwrite => ?_⟩
  rw [step_of_hostWrites hwrite]
  exact ⟨fun hbusy => congrArg _ (acceptCmd_of_busy v hbusy),
    fun hidle herr hsrst hclrerr => congrArg _ (acceptCmd_of_err hidle herr hsrst hclrerr),
    fun hidle haccept => congrArg _ (acceptCmd_of_accepted hidle haccept)⟩

/-- Settles O49: the writes of the four registers stand behind `unlessBusy`. -/
theorem busyWritesAreDropped : Obligations.BusyWritesAreDropped := by
  intro s r v hwrite hbusy hregister
  rw [step_of_hostWrites hwrite]
  exact congrArg _ (writeRegister_of_busy v hregister hbusy)

/-- Settles O50: an idle engine lets each write through, and the write's own equation says what it stores. -/
theorem idleWritesTakeEffect : Obligations.IdleWritesTakeEffect := by
  intro s v hidle
  have hafter : { s with agenda := s.agenda.tail }.busy = false := hidle
  obtain ⟨hctrl, hdata, hfreq, hlen⟩ := writeRegister_of_idle v hafter
  refine ⟨fun hwrite => ?_, fun i hwrite => ?_, fun i hwrite => ?_, fun hwrite hge hle => ?_,
    fun hwrite hillegal => ?_⟩
  all_goals rw [step_of_hostWrites hwrite]
  · rw [hdata]
  · rw [hfreq]
    exact ⟨_, rfl, Table.read_write_same _ _ i.isLt, fun j hj => Table.read_write_other _ _ hj.symm, rfl⟩
  · rw [hlen, ← BitVec.setWidth_eq_extractLsb' (by decide)]
    exact ⟨_, rfl, Table.read_write_same _ _ i.isLt, fun j hj => Table.read_write_other _ _ hj.symm, rfl⟩
  · rw [hctrl, writeSize_of_legal _ hge hle]
  · rw [hctrl, writeSize_of_illegal _ hillegal]

/-- Settles O51: `writeRegister` answers the state itself. -/
theorem readOnlyWritesAreIgnored : Obligations.ReadOnlyWritesAreIgnored := by
  intro s r v hwrite hregister
  rw [step_of_hostWrites hwrite]
  obtain rfl | rfl | rfl | rfl | rfl | rfl | ⟨i, rfl⟩ := hregister
  all_goals rfl

/-- Settles O52: the two branches of `pushIn`, which does not look at PENDING. -/
theorem inDataWriteRule : Obligations.InDataWriteRule := by
  intro s v hwrite
  rw [step_of_hostWrites hwrite]
  exact ⟨fun hbarred => congrArg _ (pushIn_of_barred v hbarred),
    fun hopen hroom => congrArg _ (pushIn_of_room v hopen hroom)⟩

end Sys2Proof.Machine
end

section
/-! SUPPORT. The command words (30_encoding.md R90 to R95): a command as an opcode, a format and an operand; what
`decode` answers for each opcode; which words a row of the opcode map selects; and the statements DecodeOfEncode,
EncodeOfDecode, DecodeSelectsOneOpcodeRow, IllegalWordsRaiseIllegal and VectorWordsDecode. -/

namespace Sys2Proof

/-! ## A command as opcode, format and operand (30_encoding.md R91, R94) -/

/-- How a command uses field A (30_encoding.md R91). -/
inductive Format where
  | f0
  | fs
  | fn

/-- The values of field A that the format takes as an operand. -/
def Format.Admits : Format → Nat → Prop
  | .f0, a => a = 0
  | .fs, a => a < 256
  | .fn, a => a < 64

/-- What decoding answers for field A, given the command for each operand. -/
def Format.decode : Format → Nat → (Nat → Instr) → Except Illegal Instr
  | .f0, a, command => decodeF0 a (command a)
  | .fs, a, command => .ok (command a)
  | .fn, a, command => decodeFN a command

/-- The bits that a row of the opcode map compares (30_encoding.md R94). -/
def Format.mask : Format → Word
  | .f0 => 0xFFFFFFFF
  | .fs => 0xFFFF00FF
  | .fn => 0xFFFFC0FF

/-- The command's opcode (30_encoding.md R94). -/
def Instr.opcode : Instr → Nat
  | .nop => 0x00
  | .srst => 0x01
  | .clrerr => 0x02
  | .frqclr => 0x08
  | .frqinc _ => 0x09
  | .bldlen => 0x10
  | .bldcan => 0x11
  | .bldtree => 0x12
  | .wrbits _ => 0x20
  | .wrclose => 0x21
  | .encsym _ => 0x22
  | .rdbit => 0x30
  | .decsym => 0x31
  | .rdreset => 0x32

/-- The command's format (30_encoding.md R94). -/
def Instr.format : Instr → Format
  | .frqinc _ | .encsym _ => .fs
  | .wrbits _ => .fn
  | _ => .f0

/-- The value of field A in the command's word. -/
def Instr.operand : Instr → Nat
  | .frqinc sym | .encsym sym => sym
  | .wrbits n => n
  | _ => 0

/-- The same command with another operand; an F0 command has none to change. -/
def Instr.withOperand : Instr → Nat → Instr
  | .frqinc _, a => .frqinc a
  | .encsym _, a => .encsym a
  | .wrbits _, a => .wrbits a
  | i, _ => i

/-- The command's row of the opcode map. -/
def Instr.row (i : Instr) : OpcodeRow := OpcodeRow.mk (mnemonicOf i) (commandWord i.opcode 0) i.format.mask

/-- Each command once, with operand 0, in the order of the opcode map. -/
def commandList : List Instr :=
  [.nop, .srst, .clrerr, .frqclr, .frqinc 0, .bldlen, .bldcan, .bldtree, .wrbits 0, .wrclose, .encsym 0,
   .rdbit, .decsym, .rdreset]

theorem opcodeMap_eq : opcodeMap = commandList.map Instr.row := rfl

theorem encode_eq_commandWord (i : Instr) : encode i = commandWord i.opcode i.operand := by
  cases i <;> rfl

theorem wellFormed_iff_admits (i : Instr) : i.wellFormed = true ↔ i.format.Admits i.operand := by
  cases i with
  | frqinc sym | encsym sym | wrbits n => exact decide_eq_true_iff
  | _ => exact iff_of_true rfl rfl

theorem Instr.opcode_lt (i : Instr) : i.opcode < 256 := by
  cases i <;> simp [opcode]

@[simp] theorem Instr.opcode_withOperand (i : Instr) (a : Nat) : (i.withOperand a).opcode = i.opcode := by
  cases i <;> rfl

@[simp] theorem Instr.format_withOperand (i : Instr) (a : Nat) : (i.withOperand a).format = i.format := by
  cases i <;> rfl

@[simp] theorem Instr.row_withOperand (i : Instr) (a : Nat) : (i.withOperand a).row = i.row := by
  cases i <;> rfl

@[simp] theorem Instr.withOperand_withOperand (i : Instr) (a b : Nat) :
    (i.withOperand a).withOperand b = i.withOperand b := by
  cases i <;> rfl

@[simp] theorem Instr.withOperand_operand (i : Instr) : i.withOperand i.operand = i := by
  cases i <;> rfl

/-- An operand of the command's format is the operand of the command that takes it. -/
theorem Instr.operand_withOperand {i : Instr} {a : Nat} (h : i.format.Admits a) :
    (i.withOperand a).operand = a := by
  cases i with
  | frqinc | encsym | wrbits => rfl
  | _ => exact h.symm

theorem Instr.withOperand_zero_mem_commandList (i : Instr) : i.withOperand 0 ∈ commandList := by
  cases i <;> simp [withOperand, commandList]

theorem Format.Admits.lt {f : Format} {a : Nat} (h : f.Admits a) : a < 256 := by
  cases f <;> simp only [Format.Admits] at h <;> omega

theorem Format.decode_eq_ok {f : Format} {a : Nat} {command : Nat → Instr} {i : Instr} (ha : a < 256) :
    f.decode a command = .ok i ↔ f.Admits a ∧ command a = i := by
  cases f <;> simp [Format.decode, Format.Admits, ha]

theorem Format.exists_decode_eq_error_iff {f : Format} {a : Nat} {command : Nat → Instr} (ha : a < 256) :
    (∃ e, f.decode a command = .error e) ↔ ¬ f.Admits a := by
  cases f with
  | f0 => by_cases h : a = 0 <;> simp [Format.decode, Format.Admits, decodeF0, h]
  | fs => simp [Format.decode, Format.Admits, ha]
  | fn => by_cases h : a < 64 <;> simp [Format.decode, Format.Admits, decodeFN, h]

/-- The reserved opcodes of R95 are those below 256 that no command has. -/
theorem not_mem_opcodes_iff {op : Nat} (h : op < 256) : op ∉ commandList.map Instr.opcode ↔
    (0x03 ≤ op ∧ op ≤ 0x07) ∨ (0x0A ≤ op ∧ op ≤ 0x0F) ∨ (0x13 ≤ op ∧ op ≤ 0x1F) ∨
      (0x23 ≤ op ∧ op ≤ 0x2F) ∨ 0x33 ≤ op := by
  simp only [commandList, List.map_cons, List.map_nil, Instr.opcode, List.mem_cons, List.not_mem_nil,
    or_false]
  omega

/-! ## The three fields of a word (30_encoding.md R90) -/

theorem word_eq_iff_fields {v w : Word} :
    v = w ↔ zField v = zField w ∧ opField v = opField w ∧ aField v = aField w := by
  refine ⟨fun h => h ▸ ⟨rfl, rfl, rfl⟩, fun ⟨hz, hop, ha⟩ => BitVec.eq_of_toNat_eq ?_⟩
  rw [word_eq_fields v, word_eq_fields w, hz, hop, ha]

theorem zField_lt (w : Word) : zField w < 2 ^ 16 := Nat.div_lt_of_lt_mul w.isLt

theorem zField_and (v w : Word) : zField (v &&& w) = zField v &&& zField w :=
  (congrArg (· / 2 ^ 16) (BitVec.toNat_and v w)).trans Nat.and_div_two_pow

theorem opField_and (v w : Word) : opField (v &&& w) = opField v &&& opField w :=
  (congrArg (· % 2 ^ 8) (BitVec.toNat_and v w)).trans Nat.and_mod_two_pow

theorem aField_and (v w : Word) : aField (v &&& w) = aField v &&& aField w := by
  have hdiv : (v &&& w).toNat / 2 ^ 8 = v.toNat / 2 ^ 8 &&& w.toNat / 2 ^ 8 :=
    (congrArg (· / 2 ^ 8) (BitVec.toNat_and v w)).trans Nat.and_div_two_pow
  exact (congrArg (· % 2 ^ 8) hdiv).trans Nat.and_mod_two_pow

/-! ## What decoding answers (30_encoding.md R93) -/

section
variable {w : Word} {i : Instr}

theorem decode_of_reserved (hz : zField w ≠ 0) : decode w = .error .reservedField := if_pos hz

/-- A command's opcode leaves the answer to its format. -/
theorem decode_of_opcode (hz : zField w = 0) (hop : opField w = i.opcode) :
    decode w = i.format.decode (aField w) i.withOperand := by
  rw [decode, if_neg (not_not_intro hz), hop]
  cases i <;> rfl

theorem decode_of_unknown (hz : zField w = 0) (hop : opField w ∉ commandList.map Instr.opcode) :
    decode w = .error .unknownOpcode := by
  rw [decode, if_neg (not_not_intro hz)]
  split
  case h_15 => rfl
  all_goals exact absurd (by rw [‹opField w = _›]; decide) hop

/-- A word decodes to a command exactly when it has the command's opcode, an operand of its format, and Z = 0. -/
theorem decode_eq_ok_iff : decode w = .ok i ↔
    zField w = 0 ∧ opField w = i.opcode ∧ i.format.Admits (aField w) ∧ i.withOperand (aField w) = i := by
  constructor
  · intro h
    by_cases hz : zField w = 0
    · by_cases hop : opField w ∈ commandList.map Instr.opcode
      · obtain ⟨j, -, hj⟩ := List.mem_map.mp hop
        rw [decode_of_opcode hz hj.symm, Format.decode_eq_ok (aField_lt w)] at h
        obtain ⟨hadmits, rfl⟩ := h
        simp [hz, hj, hadmits]
      · exact nomatch (decode_of_unknown hz hop).symm.trans h
    · exact nomatch (decode_of_reserved hz).symm.trans h
  · rintro ⟨hz, hop, hadmits, hi⟩
    rw [decode_of_opcode hz hop, Format.decode_eq_ok (aField_lt w)]
    exact ⟨hadmits, hi⟩

/-- Every command whose opcode and format a word has is, with the word's operand, what the word decodes to. -/
theorem decode_withOperand (hz : zField w = 0) (hop : opField w = i.opcode) (ha : i.format.Admits (aField w)) :
    decode w = .ok (i.withOperand (aField w)) :=
  decode_eq_ok_iff.mpr (by simp [hz, hop, ha])

/-- A word with a command's opcode is ILLEGAL exactly when its A field is no operand of the command's format. -/
theorem exists_decode_eq_error_iff (hz : zField w = 0) (hop : opField w = i.opcode) :
    (∃ e, decode w = .error e) ↔ ¬ i.format.Admits (aField w) := by
  rw [decode_of_opcode hz hop]
  exact Format.exists_decode_eq_error_iff (aField_lt w)

/-! ## Which row a word selects (30_encoding.md R94) -/

theorem Format.zField_mask (f : Format) : zField f.mask = 2 ^ 16 - 1 := by cases f <;> rfl

theorem Format.opField_mask (f : Format) : opField f.mask = 2 ^ 8 - 1 := by cases f <;> rfl

/-- The six low bits of A are free in an FN command, and its two high bits are compared with 0. -/
theorem and_high_bits_eq_zero_iff {a : Nat} (h : a < 256) : a &&& 0xC0 = 0 ↔ a < 64 := by
  have hhigh : (a &&& 0xC0) / 2 ^ 6 = a / 2 ^ 6 &&& 2 ^ 2 - 1 := Nat.and_div_two_pow
  have hlow : (a &&& 0xC0) % 2 ^ 6 = a % 2 ^ 6 &&& 0 := Nat.and_mod_two_pow
  rw [Nat.and_two_pow_sub_one_of_lt_two_pow (by omega)] at hhigh
  rw [Nat.and_zero] at hlow
  omega

/-- A mask compares the bits of A that an operand of the format leaves at 0. -/
theorem Format.and_aField_mask_eq_zero_iff (f : Format) {a : Nat} (h : a < 256) :
    a &&& aField f.mask = 0 ↔ f.Admits a := by
  cases f with
  | f0 =>
    have hmask : a &&& aField Format.f0.mask = a := Nat.and_two_pow_sub_one_of_lt_two_pow (n := 8) h
    rw [hmask, Format.Admits]
  | fs => exact iff_of_true (Nat.and_zero a) h
  | fn => exact and_high_bits_eq_zero_iff h

/-- A mask also compares Z and OP, whole. -/
theorem and_mask_eq_commandWord_iff {f : Format} {op : Nat} (hlt : op < 256) :
    w &&& f.mask = commandWord op 0 ↔ zField w = 0 ∧ opField w = op ∧ f.Admits (aField w) := by
  rw [word_eq_iff_fields, zField_and, opField_and, aField_and, f.zField_mask, f.opField_mask,
    Nat.and_two_pow_sub_one_of_lt_two_pow (zField_lt w), Nat.and_two_pow_sub_one_of_lt_two_pow (opField_lt w),
    zField_commandWord hlt (by decide), opField_commandWord hlt (by decide), aField_commandWord hlt (by decide),
    f.and_aField_mask_eq_zero_iff (aField_lt w)]

theorem row_selects_iff : i.row.selects w = true ↔
    zField w = 0 ∧ opField w = i.opcode ∧ i.format.Admits (aField w) :=
  beq_iff_eq.trans (and_mask_eq_commandWord_iff i.opcode_lt)

theorem Instr.row_mem_opcodeMap (i : Instr) : i.row ∈ opcodeMap := by
  rw [opcodeMap_eq, ← i.row_withOperand 0]
  exact List.mem_map_of_mem i.withOperand_zero_mem_commandList

/-- A selected row is the row of the command the word decodes to. -/
theorem exists_decode_of_selects {q : OpcodeRow} (hq : q ∈ opcodeMap) (h : q.selects w = true) :
    ∃ i, decode w = .ok i ∧ i.row = q := by
  rw [opcodeMap_eq] at hq
  obtain ⟨j, -, rfl⟩ := List.mem_map.mp hq
  obtain ⟨hz, hop, hadmits⟩ := row_selects_iff.mp h
  exact ⟨_, decode_withOperand hz hop hadmits, j.row_withOperand _⟩

theorem row_selects_of_decode (h : decode w = .ok i) : i.row.selects w = true := by
  obtain ⟨hz, hop, hadmits, -⟩ := decode_eq_ok_iff.mp h
  exact row_selects_iff.mpr ⟨hz, hop, hadmits⟩

end

/-! ## The statements -/

/-- Settles O1: the fields of the word are the command's own opcode and operand. -/
theorem decodeOfEncode : Obligations.DecodeOfEncode := by
  intro i hwf
  have hadmits := (wellFormed_iff_admits i).mp hwf
  rw [encode_eq_commandWord, decode_eq_ok_iff, zField_commandWord i.opcode_lt hadmits.lt,
    opField_commandWord i.opcode_lt hadmits.lt, aField_commandWord i.opcode_lt hadmits.lt]
  exact ⟨rfl, rfl, hadmits, i.withOperand_operand⟩

/-- Settles O2: the word and the command's word agree in each field. -/
theorem encodeOfDecode : Obligations.EncodeOfDecode := by
  intro w i h
  obtain ⟨hz, hop, hadmits, hi⟩ := decode_eq_ok_iff.mp h
  have ha : i.operand = aField w := by
    rw [← hi]
    exact Instr.operand_withOperand hadmits
  have hlt := aField_lt w
  refine ⟨(wellFormed_iff_admits i).mpr (ha ▸ hadmits), ?_⟩
  rw [encode_eq_commandWord, ha, word_eq_iff_fields, zField_commandWord i.opcode_lt hlt,
    opField_commandWord i.opcode_lt hlt, aField_commandWord i.opcode_lt hlt]
  exact ⟨hz.symm, hop.symm, rfl⟩

/-- Settles O3: a word selects the row of the command it decodes to, and whatever row it selects is that one. -/
theorem decodeSelectsOneOpcodeRow : Obligations.DecodeSelectsOneOpcodeRow := by
  refine fun w => ⟨fun i hi => ⟨i.row, i.row_mem_opcodeMap, rfl, row_selects_of_decode hi, fun q hq hsel => ?_⟩,
    fun e he r hr => Bool.eq_false_iff.mpr fun hsel => ?_⟩
  · obtain ⟨j, hj, rfl⟩ := exists_decode_of_selects hq hsel
    cases hj.symm.trans hi
    rfl
  · obtain ⟨j, hj, -⟩ := exists_decode_of_selects hr hsel
    exact nomatch hj.symm.trans he

/-- Settles O4: the grounds are a Z that is not 0, an opcode that no command has, and, for each command's opcode,
an A field that is no operand of it. -/
theorem illegalWordsRaiseIllegal : Obligations.IllegalWordsRaiseIllegal := by
  refine fun w => ⟨?_, fun s e => Machine.step_of_illegal⟩
  by_cases hz : zField w = 0
  · by_cases hknown : opField w ∈ commandList.map Instr.opcode
    · obtain ⟨i, -, hop⟩ := List.mem_map.mp hknown
      rw [exists_decode_eq_error_iff hz hop.symm, ← hop]
      cases i <;> simp [Instr.opcode, Instr.format, Format.Admits, hz, aField_lt w]
    · exact iff_of_true ⟨_, decode_of_unknown hz hknown⟩
        (.inr (.inl ((not_mem_opcodes_iff (opField_lt w)).mp hknown)))
  · exact iff_of_true ⟨_, decode_of_reserved hz⟩ (.inl hz)

/-- Settles O5: the words of commands are their encodings, and the others meet one of R95's grounds. -/
theorem vectorWordsDecode : Obligations.VectorWordsDecode :=
  ⟨decodeOfEncode (.encsym 3) rfl, decodeOfEncode (.wrbits 12) rfl, decodeOfEncode (.wrbits 32) rfl,
    decodeOfEncode (.wrbits 33) rfl, rfl, rfl, rfl, rfl, decodeOfEncode (.frqinc 255) rfl,
    decodeOfEncode .decsym rfl, rfl⟩

end Sys2Proof
end

section
/-! SUPPORT. A branch of a host program, and WAIT's branch on STATUS (30_encoding.md R98, R99); the statement
WaitGoesOnWhenIdle. -/

namespace Sys2Proof.Machine

/-- A branch goes to its target when its field has its value, and on to the next operation when not. -/
theorem HostRun.hostTurn_branch {h : HostRun} {n : String} {hi lo : Nat} {v : HostValue} {dest : Target}
    (hrun : h.failed = false) (hop : h.program[h.here]? = some (.branch n hi lo v dest)) :
    h.hostTurn = .next (if h.field n hi lo = (h.valueOf v).toNat then h.goTo dest else h.advance) := by
  simp [HostRun.hostTurn, hrun, hop]

/-- Bit 0 of the value read last into a name. -/
theorem HostRun.field_zero_eq_one_iff {h : HostRun} {n : String} {v : Word} {names : List (String × Word)}
    (hnames : h.names = (n, v) :: names) : h.field n 0 0 = 1 ↔ v.getLsbD 0 = true := by
  simp [HostRun.field, hnames, BitVec.getLsbD, Nat.testBit_zero]

/-- WAIT's branch, with STATUS as `s` showed it read last, is taken exactly when `s` was busy. -/
theorem HostRun.hostTurn_branch_on_busy {h : HostRun} {s : State} {n : String} {names : List (String × Word)}
    {dest : Target} (hrun : h.failed = false)
    (hop : h.program[h.here]? = some (.branch n 0 0 (.const 1) dest)) (hnames : h.names = (n, s.status) :: names) :
    h.hostTurn = .next (if s.busy then h.goTo dest else h.advance) := by
  have hbusy : h.field n 0 0 = (h.valueOf (.const 1)).toNat ↔ s.busy = true := by
    rw [State.busy, ← (status_flags s).1]
    exact HostRun.field_zero_eq_one_iff hnames
  rw [HostRun.hostTurn_branch hrun hop, if_congr hbusy rfl rfl]

/-- WAIT's operations stand where WAIT stands. -/
theorem waitOps_getElem? {program pre rest : List HostOp} (h : program = pre ++ waitOps ++ rest) :
    program[pre.length]? = some (.read .status (some scratch)) ∧
    program[pre.length + 1]? = some (.branch scratch 0 0 (.const 1) (.by (-1))) := by
  subst h
  simp [waitOps]

/-- Settles O60: the read's equation, then the branch's. -/
theorem waitGoesOnWhenIdle : Obligations.WaitGoesOnWhenIdle := by
  intro h pre rest hrun hhere hprogram
  obtain ⟨hread, hbranch⟩ := waitOps_getElem? hprogram
  rw [← hhere] at hread hbranch
  refine ⟨_, _, HostRun.hostTurn_read hrun hread, HostRun.hostTurn_branch_on_busy hrun hbranch rfl, ?_⟩
  cases h.machine.busy with
  | true =>
    have hback : ((h.here + 1 : Nat) + (-1 : Int)).toNat = pre.length := by omega
    exact ⟨rfl, hback, rfl, hrun⟩
  | false => exact ⟨rfl, congrArg (· + 2) hhere, rfl, hrun⟩

end Sys2Proof.Machine
end

section
/-! SUPPORT. The control commands (40_control.md): which words with opcode 0 are not NOP, how the CMD rule treats the
words of SRST and CLRERR, and the statements NopRule, SrstRule and ClrerrRule. -/

namespace Sys2Proof.Machine

/-- With OP = 0, an operand or a Z that is not 0 makes the word ILLEGAL (30_encoding.md R93). -/
theorem exists_decode_eq_error_of_opField_zero {w : Word} (hop : opField w = 0)
    (h : aField w ≠ 0 ∨ zField w ≠ 0) : ∃ e, decode w = .error e := by
  by_cases hz : zField w = 0
  · have ha : ¬ Instr.nop.format.Admits (aField w) := h.resolve_right (not_not_intro hz)
    exact (exists_decode_eq_error_iff (i := .nop) hz hop).mpr ha
  · exact ⟨_, decode_of_reserved hz⟩

/-- An idle engine accepts the two words that lead out of an error, whatever ERR is (20_memory.md R65). -/
theorem step_of_recovery_cmd {s : State} {v : Word} (hv : v = 0x00000001 ∨ v = 0x00000002)
    (hidle : s.busy = false) (hwrite : s.hostWrites .cmd v) :
    step s = .next { s with pending := some v, agenda := s.agenda.tail } := by
  obtain ⟨-, -, -, hcmd⟩ := cmdWriteRule
  obtain ⟨-, -, haccept⟩ := hcmd s v hwrite
  exact haccept hidle (.inr hv)

/-- A CMD write while BUSY answers a next state with the same command pending (20_memory.md R65). -/
theorem step_of_busy_cmd {s : State} {v : Word} (hbusy : s.busy = true) (hwrite : s.hostWrites .cmd v) :
    ∃ t, step s = .next t ∧ t.pending = s.pending := by
  obtain ⟨-, -, -, hcmd⟩ := cmdWriteRule
  obtain ⟨hdrop, -, -⟩ := hcmd s v hwrite
  exact ⟨_, hdrop hbusy, rfl⟩

/-! ## The statements -/

/-- Settles O14: NOP ends in `done` of the state itself, and 0 is none of the words that CMD takes while ERR = 1. -/
theorem nopRule : Obligations.NopRule := by
  refine ⟨decodeOfEncode .nop rfl, exec_nop, fun s hidle herr hwrite => ?_,
    fun w => exists_decode_eq_error_of_opField_zero⟩
  obtain ⟨-, -, -, hcmd⟩ := cmdWriteRule
  obtain ⟨-, hdrop, -⟩ := hcmd s 0 hwrite
  exact hdrop hidle herr (by decide) (by decide)

/-- Settles O15: SRST ends in `done` of `softReset`, and its word is a recovery word. -/
theorem srstRule : Obligations.SrstRule :=
  ⟨decodeOfEncode .srst rfl, exec_srst, fun _ => step_of_recovery_cmd (.inl rfl), fun _ => step_of_busy_cmd⟩

/-- Settles O16: CLRERR ends in `done` of `clearErrorRecord`, and its word is a recovery word. -/
theorem clrerrRule : Obligations.ClrerrRule :=
  ⟨decodeOfEncode .clrerr rfl, exec_clrerr, fun _ => step_of_recovery_cmd (.inr rfl)⟩

end Sys2Proof.Machine
end

section
/-! SUPPORT. The frequency table (41_huffman_build.md R120, R121): the word of FRQINC, what FRQINC does in each case of
its rule, and the statements FrqclrRule and FrqincRule. -/

namespace Sys2Proof.Machine

/-- The word of FRQINC as R121 writes it is the encoding of the command. -/
theorem frqinc_word_eq_encode {sym : Nat} (h : sym < 256) :
    (0x00000009 ||| BitVec.ofNat 32 sym <<< 8 : Word) = encode (.frqinc sym) := by
  have hword : (encode (.frqinc sym)).toNat = 9 + 256 * sym := commandWord_toNat (by decide) h
  have hor : 9 ||| sym <<< 8 = 9 + 256 * sym := by
    rw [Nat.or_comm, ← Nat.shiftLeft_add_eq_or_of_lt (by decide), Nat.shiftLeft_eq]
    omega
  have hsym : (BitVec.ofNat 32 sym).toNat = sym := Nat.mod_eq_of_lt (by omega)
  have hshift : sym <<< 8 % 2 ^ 32 = sym <<< 8 := Nat.mod_eq_of_lt (by rw [Nat.shiftLeft_eq]; omega)
  apply BitVec.eq_of_toNat_eq
  rw [BitVec.toNat_or, BitVec.toNat_shiftLeft, hsym, hshift, hword]
  exact hor

section
variable {s : State} {sym : Nat}

theorem frqinc_of_size_le (h : s.size ≤ sym) : frqinc sym s = .error .symRange s := by
  simp [frqinc, State.symInRange, Nat.not_lt.mpr h]

theorem frqinc_of_full (hsym : sym < s.size) (hfull : s.freq.read sym = 0xFFFFFFFF) :
    frqinc sym s = .error .freqOverflow s := by
  rw [frqinc, State.symInRange, if_pos (decide_eq_true hsym), if_pos hfull]

theorem frqinc_of_room (hsym : sym < s.size) (hroom : s.freq.read sym ≠ 0xFFFFFFFF) :
    frqinc sym s = .done (countSymbol sym s) := by
  rw [frqinc, State.symInRange, if_pos (decide_eq_true hsym), if_neg hroom]

end

/-- An error that leaves the state it began with is a failure with the error's number. -/
theorem settle_error_self (s : State) (e : ErrorCode) : settle s (.error e s) = s.failed e.number := rfl

/-- Settles O17: every entry of the new table reads 0. -/
theorem frqclrRule : Obligations.FrqclrRule :=
  ⟨decodeOfEncode .frqclr rfl, fun s => ⟨_, exec_frqclr s, fun _ hi => Table.read_tabulate _ hi, rfl⟩⟩

/-- Settles O18, from the three equations of `frqinc` and the reads after a write. -/
theorem frqincRule : Obligations.FrqincRule := by
  refine ⟨fun sym hsym => ?_, fun s sym hsize => ⟨fun hle => ?_, fun hlt hfull => ?_, fun hlt hroom => ?_⟩⟩
  · rw [frqinc_word_eq_encode hsym]
    exact decodeOfEncode _ (decide_eq_true hsym)
  · rw [exec_frqinc, frqinc_of_size_le hle, settle_error_self]
    rfl
  · rw [exec_frqinc, frqinc_of_full hlt hfull, settle_error_self]
    rfl
  · rw [exec_frqinc, frqinc_of_room hlt hroom]
    exact ⟨_, rfl, Table.read_write_same _ _ (by omega), fun j hj => Table.read_write_other _ _ hj.symm, rfl⟩

end Sys2Proof.Machine
end

section
/-! SUPPORT. The canonical codes (41_huffman_build.md R126, R127): the walk over the sorted lengths gives each symbol
the Kraft sum of the symbols before it, and fails when the sum exceeds 1; the statements BldcanAssignsCanonicalCodes,
BldcanRefusesBadLengths and CanonicalCodesDependOnlyOnLengths. -/

namespace Sys2Proof.Machine

/-! ## The value a list of pairs gives a symbol -/

@[simp] theorem valueFor_cons_self (s v : Nat) (pairs : List (Nat × Nat)) : valueFor ((s, v) :: pairs) s = v := by
  simp [valueFor]

theorem valueFor_cons_of_ne {s i : Nat} (h : i ≠ s) (v : Nat) (pairs : List (Nat × Nat)) :
    valueFor ((s, v) :: pairs) i = valueFor pairs i := by
  simp [valueFor, List.lookup_cons, beq_false_of_ne h]

theorem valueFor_of_not_mem {pairs : List (Nat × Nat)} {i : Nat} (h : i ∉ pairs.map Prod.fst) :
    valueFor pairs i = 0 := by
  induction pairs with
  | nil => rfl
  | cons p pairs ih =>
    obtain ⟨hne, htail⟩ := not_or.mp (List.mem_cons.not.mp h)
    rw [valueFor_cons_of_ne hne, ih htail]

/-- Where no key occurs twice, a pair's value is what the list gives its key. -/
theorem valueFor_of_mem {pairs : List (Nat × Nat)} (hnodup : (pairs.map Prod.fst).Nodup) {p : Nat × Nat}
    (h : p ∈ pairs) : valueFor pairs p.1 = p.2 := by
  induction pairs with
  | nil => nomatch h
  | cons q pairs ih =>
    obtain ⟨hq, htail⟩ := List.nodup_cons.mp hnodup
    obtain rfl | hmem := List.mem_cons.mp h
    · exact valueFor_cons_self _ _ _
    · have hne : p.1 ≠ q.1 := fun heq => hq (heq ▸ List.mem_map_of_mem hmem)
      rw [valueFor_cons_of_ne hne, ih htail hmem]

/-! ## Kraft sums (41_huffman_build.md R126) -/

/-- 2^m times the Kraft sum of a list of code lengths of at most `m`. -/
def kraftSum (m : Nat) (lengths : List Nat) : Nat := (lengths.map fun l => 2 ^ (m - l)).sum

@[simp] theorem kraftSum_nil (m : Nat) : kraftSum m [] = 0 := rfl

@[simp] theorem kraftSum_cons (m l : Nat) (lengths : List Nat) :
    kraftSum m (l :: lengths) = 2 ^ (m - l) + kraftSum m lengths := by
  simp [kraftSum]

theorem kraftSum_append (m : Nat) (xs ys : List Nat) : kraftSum m (xs ++ ys) = kraftSum m xs + kraftSum m ys := by
  simp [kraftSum]

theorem kraftSum_perm {m : Nat} {xs ys : List Nat} (h : xs.Perm ys) : kraftSum m xs = kraftSum m ys :=
  (h.map _).sum_eq

/-- Codes of at most `m` bits, in units of a longer code. -/
theorem kraftSum_add (m d : Nat) {lengths : List Nat} (h : ∀ l ∈ lengths, l ≤ m) :
    kraftSum (m + d) lengths = kraftSum m lengths * 2 ^ d := by
  induction lengths with
  | nil => simp
  | cons l lengths ih =>
    obtain ⟨hl, htail⟩ := List.forall_mem_cons.mp h
    rw [kraftSum_cons, kraftSum_cons, ih htail, Nat.add_mul, ← Nat.pow_add, Nat.sub_add_comm hl]

/-- A state's Kraft sum is that of the lengths of the symbols it uses. -/
theorem kraft_eq_kraftSum (s : State) (m : Nat) (syms : List Nat) :
    s.kraft m syms = kraftSum m ((syms.filter fun i => decide (s.lenAt i ≠ 0)).map s.lenAt) := by
  induction syms with
  | nil => rfl
  | cons i syms ih =>
    have hcons : s.kraft m (i :: syms) = (if s.lenAt i = 0 then 0 else 2 ^ (m - s.lenAt i)) + s.kraft m syms := by
      simp [State.kraft]
    rw [hcons, ih]
    by_cases hi : s.lenAt i = 0 <;> simp [hi]

/-! ## The walk over the sorted lengths (41_huffman_build.md R126) -/

/-- The order of R126 between the pairs of different symbols. -/
abbrev strictlyBefore (x y : Nat × Nat) : Prop := x.1 < y.1 ∨ x.1 = y.1 ∧ x.2 < y.2

theorem strictlyBefore_length_le {x y : Nat × Nat} (h : strictlyBefore x y) : x.1 ≤ y.1 := by
  unfold strictlyBefore at h
  omega

theorem not_strictlyBefore_of_strictlyBefore {x y : Nat × Nat} (h : strictlyBefore x y) : ¬ strictlyBefore y x := by
  unfold strictlyBefore at *
  omega

/-- Shifting the code by the levels skipped does not change its place among the codes of `m` bits. -/
theorem shifted_code_scaled {prev l m : Nat} (code : Nat) (hprev : prev ≤ l) (hl : l ≤ m) :
    code * 2 ^ (l - prev) * 2 ^ (m - l) = code * 2 ^ (m - prev) := by
  rw [Nat.mul_assoc, ← Nat.pow_add, show l - prev + (m - l) = m - prev by omega]

/-- A walk that answers has found the first code to fit its length, and answers on the rest. -/
theorem assignCodes_cons_eq_some {code prev l sym : Nat} {pairs codes : List (Nat × Nat)}
    (h : assignCodes code prev ((l, sym) :: pairs) = some codes) : code * 2 ^ (l - prev) < 2 ^ l ∧
      ∃ tail, assignCodes (code * 2 ^ (l - prev) + 1) l pairs = some tail ∧
        codes = (sym, code * 2 ^ (l - prev)) :: tail := by
  simp only [assignCodes] at h
  split at h
  · cases h
  · obtain ⟨tail, htail, rfl⟩ := Option.map_eq_some_iff.mp h
    exact ⟨Nat.lt_of_not_le ‹_›, tail, htail, rfl⟩

/-- The walk answers exactly when the code so far and the lengths to come have Kraft sum at most 1. -/
theorem assignCodes_isSome_iff {m code prev : Nat} {pairs : List (Nat × Nat)} (hcode : code ≤ 2 ^ prev)
    (hprev : prev ≤ m) (hsorted : pairs.Pairwise strictlyBefore) (hrange : ∀ p ∈ pairs, prev ≤ p.1 ∧ p.1 ≤ m) :
    (assignCodes code prev pairs).isSome ↔ code * 2 ^ (m - prev) + kraftSum m (pairs.map Prod.fst) ≤ 2 ^ m := by
  induction pairs generalizing code prev with
  | nil =>
    have hfits := Nat.mul_le_mul_right (2 ^ (m - prev)) hcode
    rw [pow_mul_pow_sub 2 hprev] at hfits
    simpa [assignCodes] using hfits
  | cons p pairs ih =>
    obtain ⟨l, sym⟩ := p
    obtain ⟨hfirst, htail⟩ := List.pairwise_cons.mp hsorted
    obtain ⟨⟨hge, hle⟩, hrest⟩ : (prev ≤ l ∧ l ≤ m) ∧ ∀ q ∈ pairs, prev ≤ q.1 ∧ q.1 ≤ m :=
      List.forall_mem_cons.mp hrange
    have hscaled := shifted_code_scaled code hge hle
    have hunit := pow_mul_pow_sub 2 hle
    have hpos : 0 < 2 ^ (m - l) := Nat.two_pow_pos _
    rw [List.map_cons, kraftSum_cons, ← hscaled]
    by_cases hover : 2 ^ l ≤ code * 2 ^ (l - prev)
    · have hbig := Nat.mul_le_mul_right (2 ^ (m - l)) hover
      simp only [assignCodes, if_pos hover, Option.isSome_none, Bool.false_eq_true, false_iff]
      omega
    · have hnext := ih (Nat.lt_of_not_le hover) hle htail
        fun q hq => ⟨strictlyBefore_length_le (hfirst q hq), (hrest q hq).2⟩
      simp only [assignCodes, if_neg hover, Option.isSome_map, hnext, Nat.succ_mul, Nat.add_assoc]

/-- The walk gives codes to the symbols of its list, in their order. -/
theorem assignCodes_keys {code prev : Nat} {pairs codes : List (Nat × Nat)}
    (h : assignCodes code prev pairs = some codes) : codes.map Prod.fst = pairs.map Prod.snd := by
  induction pairs generalizing code prev codes with
  | nil => cases h; rfl
  | cons p pairs ih =>
    obtain ⟨-, tail, htail, rfl⟩ := assignCodes_cons_eq_some h
    rw [List.map_cons, List.map_cons, ih htail]

/-- The code of a symbol fits its length and, scaled to `m` bits, is the code the walk began with and the Kraft sum
of the symbols before it. -/
theorem assignCodes_value {m code prev : Nat} {pairs codes : List (Nat × Nat)}
    (h : assignCodes code prev pairs = some codes) (hsorted : pairs.Pairwise strictlyBefore)
    (hnodup : (pairs.map Prod.snd).Nodup) (hrange : ∀ p ∈ pairs, prev ≤ p.1 ∧ p.1 ≤ m) {p : Nat × Nat}
    (hp : p ∈ pairs) :
    valueFor codes p.2 < 2 ^ p.1 ∧
    valueFor codes p.2 * 2 ^ (m - p.1) = code * 2 ^ (m - prev) +
      kraftSum m ((pairs.filter fun q => decide (strictlyBefore q p)).map Prod.fst) := by
  induction pairs generalizing code prev codes with
  | nil => nomatch hp
  | cons q pairs ih =>
    obtain ⟨l, sym⟩ := q
    obtain ⟨hfirst, htail⟩ := List.pairwise_cons.mp hsorted
    obtain ⟨hfresh, hnodup⟩ := List.nodup_cons.mp hnodup
    obtain ⟨⟨hge, hle⟩, hrest⟩ : (prev ≤ l ∧ l ≤ m) ∧ ∀ q ∈ pairs, prev ≤ q.1 ∧ q.1 ≤ m :=
      List.forall_mem_cons.mp hrange
    have hscaled := shifted_code_scaled code hge hle
    obtain ⟨hfits, tail, hcodes, rfl⟩ := assignCodes_cons_eq_some h
    obtain rfl | hmem := List.mem_cons.mp hp
    · have hnone : ((l, sym) :: pairs).filter (fun q => decide (strictlyBefore q (l, sym))) = [] := by
        refine List.filter_eq_nil_iff.mpr (List.forall_mem_cons.mpr ⟨by simp [strictlyBefore], fun q hq => ?_⟩)
        simpa using not_strictlyBefore_of_strictlyBefore (hfirst q hq)
      rw [valueFor_cons_self, hnone]
      exact ⟨hfits, hscaled⟩
    · have hne : p.2 ≠ sym := fun heq => hfresh (List.mem_map.mpr ⟨p, hmem, heq⟩)
      obtain ⟨hlt, hvalue⟩ := ih hcodes htail hnodup
        (fun q hq => ⟨strictlyBefore_length_le (hfirst q hq), (hrest q hq).2⟩) hmem
      rw [valueFor_cons_of_ne hne, List.filter_cons_of_pos (by simpa using hfirst p hmem), List.map_cons,
        kraftSum_cons, hvalue, Nat.add_mul, hscaled, Nat.one_mul, Nat.add_assoc]
      exact ⟨hlt, rfl⟩

/-! ## The sorted lengths (41_huffman_build.md R126) -/

theorem read_ne_zero_iff_lenAt (s : State) (i : Nat) : s.len.read i ≠ 0 ↔ s.lenAt i ≠ 0 :=
  not_congr BitVec.toNat_eq

theorem sortedLengths_perm (s : State) :
    (sortedLengths s.len s.size).Perm
      (((List.range s.size).filter fun i => decide (s.lenAt i ≠ 0)).map fun i => (s.lenAt i, i)) := by
  have hused : (fun i => decide (s.len.read i ≠ 0)) = fun i => decide (s.lenAt i ≠ 0) :=
    funext fun i => decide_eq_decide.mpr (read_ne_zero_iff_lenAt s i)
  rw [← hused]
  exact List.perm_insertionSort _ _

theorem mem_sortedLengths {s : State} {p : Nat × Nat} :
    p ∈ sortedLengths s.len s.size ↔ p.2 < s.size ∧ s.lenAt p.2 ≠ 0 ∧ p.1 = s.lenAt p.2 := by
  obtain ⟨l, i⟩ := p
  rw [(sortedLengths_perm s).mem_iff]
  simp only [List.mem_map, List.mem_filter, List.mem_range, decide_eq_true_eq, Prod.mk.injEq]
  constructor
  · rintro ⟨j, ⟨hj, hused⟩, rfl, rfl⟩
    exact ⟨hj, hused, rfl⟩
  · rintro ⟨hi, hused, rfl⟩
    exact ⟨i, ⟨hi, hused⟩, rfl, rfl⟩

theorem sortedLengths_le {s : State} {m : Nat} (h : ∀ i, i < s.size → s.lenAt i ≤ m) {p : Nat × Nat}
    (hp : p ∈ sortedLengths s.len s.size) : p.1 ≤ m := by
  obtain ⟨hi, -, hlen⟩ := mem_sortedLengths.mp hp
  rw [hlen]
  exact h _ hi

theorem sortedLengths_nodup (s : State) : ((sortedLengths s.len s.size).map Prod.snd).Nodup := by
  refine ((sortedLengths_perm s).map Prod.snd).nodup_iff.mpr ?_
  rw [List.map_map]
  exact (List.map_id _).symm ▸ List.nodup_range.filter _

/-- The sorted list is in the strict order, since its symbols are distinct. -/
theorem sortedLengths_sorted (s : State) : (sortedLengths s.len s.size).Pairwise strictlyBefore := by
  have htotal : Std.Total byLengthThenSymbol := ⟨fun x y => by unfold byLengthThenSymbol; omega⟩
  have htrans : IsTrans (Nat × Nat) byLengthThenSymbol := ⟨fun x y z => by unfold byLengthThenSymbol; omega⟩
  have hsorted : (sortedLengths s.len s.size).Pairwise byLengthThenSymbol := List.pairwise_insertionSort _ _
  refine hsorted.imp₂ (fun x y hle hne => ?_) (List.pairwise_map.mp (sortedLengths_nodup s))
  unfold strictlyBefore
  omega

/-- The Kraft sum of the pairs before a symbol's is that of the symbols BLDCAN handles before it. -/
theorem kraftSum_sortedLengths_before (s : State) (m i : Nat) :
    kraftSum m (((sortedLengths s.len s.size).filter fun q => decide (strictlyBefore q (s.lenAt i, i))).map Prod.fst)
      = s.kraft m (s.codedBefore i) := by
  rw [kraft_eq_kraftSum, kraftSum_perm (((sortedLengths_perm s).filter _).map _), List.filter_map, List.map_map,
    List.filter_filter, State.codedBefore, List.filter_filter]
  congr 2
  apply List.filter_congr
  intro j _
  simp [and_comm, Bool.and_comm]

theorem kraftSum_sortedLengths (s : State) (m : Nat) :
    kraftSum m ((sortedLengths s.len s.size).map Prod.fst) = s.kraft m (List.range s.size) := by
  rw [kraft_eq_kraftSum, kraftSum_perm ((sortedLengths_perm s).map _), List.map_map]
  rfl

/-! ## What `buildCanonicalCodes` answers (41_huffman_build.md R126) -/

theorem buildCanonicalCodes_of_long {s : State} (h : ∃ i, i < s.size ∧ 32 < s.lenAt i) :
    buildCanonicalCodes s.len s.size = .error .lenTooLong := by
  obtain ⟨i, hi, hlong⟩ := h
  exact if_pos (List.any_eq_true.mpr ⟨i, List.mem_range.mpr hi, decide_eq_true hlong⟩)

/-- With no length above 32 the walk decides. -/
theorem buildCanonicalCodes_of_short {s : State} (h : ∀ i, i < s.size → s.lenAt i ≤ 32) :
    (assignCodes 0 0 (sortedLengths s.len s.size) = none →
      buildCanonicalCodes s.len s.size = .error .oversubscribed) ∧
    ∀ codes, assignCodes 0 0 (sortedLengths s.len s.size) = some codes →
      buildCanonicalCodes s.len s.size = .ok codes := by
  have hshort : ¬ ((List.range s.size).any fun i => decide (32 < (s.len.read i).toNat)) = true := by
    simpa [State.lenAt] using h
  refine ⟨fun hwalk => ?_, fun codes hwalk => ?_⟩ <;> rw [buildCanonicalCodes, if_neg hshort, hwalk]

/-- On lengths of at most 32 the walk from the start answers exactly when the Kraft sum is at most 1. -/
theorem walk_isSome_iff {s : State} (h : ∀ i, i < s.size → s.lenAt i ≤ 32) :
    (assignCodes 0 0 (sortedLengths s.len s.size)).isSome ↔ s.kraft 32 (List.range s.size) ≤ 2 ^ 32 := by
  rw [assignCodes_isSome_iff (m := 32) (by decide) (by decide) (sortedLengths_sorted s)
    fun p hp => ⟨Nat.zero_le _, sortedLengths_le h hp⟩, kraftSum_sortedLengths, Nat.zero_mul, Nat.zero_add]

/-- The canonical codes: 0 for a symbol without a length, and for a used symbol the Kraft sum of those before it, in
as many bits as its length (R126). -/
theorem walk_values {s : State} {codes : List (Nat × Nat)} (h : ∀ i, i < s.size → s.lenAt i ≤ 32)
    (hwalk : assignCodes 0 0 (sortedLengths s.len s.size) = some codes) {i : Nat} (hi : i < s.size) :
    (s.lenAt i = 0 → valueFor codes i = 0) ∧
    (s.lenAt i ≠ 0 → valueFor codes i < 2 ^ 32 ∧
      valueFor codes i * 2 ^ (32 - s.lenAt i) = s.kraft 32 (s.codedBefore i)) := by
  refine ⟨fun hunused => valueFor_of_not_mem fun hmem => ?_, fun hused => ?_⟩
  · rw [assignCodes_keys hwalk] at hmem
    obtain ⟨p, hp, rfl⟩ := List.mem_map.mp hmem
    obtain ⟨-, hne, -⟩ := mem_sortedLengths.mp hp
    exact hne hunused
  · have hmem : (s.lenAt i, i) ∈ sortedLengths s.len s.size := mem_sortedLengths.mpr ⟨hi, hused, rfl⟩
    obtain ⟨hlt, hvalue⟩ := assignCodes_value (m := 32) hwalk (sortedLengths_sorted s) (sortedLengths_nodup s)
      (fun p hp => ⟨Nat.zero_le _, sortedLengths_le h hp⟩) hmem
    rw [kraftSum_sortedLengths_before, Nat.zero_mul, Nat.zero_add] at hvalue
    exact ⟨hlt.trans_le (Nat.pow_le_pow_right (by decide) (h i hi)), hvalue⟩

/-! ## BLDCAN -/

theorem bldcan_of_error {s : State} {e : ErrorCode} (h : buildCanonicalCodes s.len s.size = .error e) :
    exec .bldcan s = .next (s.failed e.number) := by
  rw [exec_bldcan, bldcan, h, settle_error_self]

theorem bldcan_of_ok {s : State} {codes : List (Nat × Nat)} (h : buildCanonicalCodes s.len s.size = .ok codes) :
    bldcan s = .done { s with code := storeCodes s.size codes s.code }.codesBuilt := by
  rw [bldcan, h]

/-- The answer of the builder depends on the lengths below the bound only (R127). -/
theorem buildCanonicalCodes_congr {len len' : Table 8} {n : Nat} (h : ∀ i, i < n → len.read i = len'.read i) :
    buildCanonicalCodes len n = buildCanonicalCodes len' n := by
  have hread : ∀ i ∈ List.range n, len.read i = len'.read i := fun i hi => h i (List.mem_range.mp hi)
  have hused : (List.range n).filter (fun i => decide (len.read i ≠ 0))
      = (List.range n).filter fun i => decide (len'.read i ≠ 0) :=
    List.filter_congr fun i hi => by rw [hread i hi]
  have hsorted : sortedLengths len n = sortedLengths len' n := by
    unfold sortedLengths
    rw [hused, List.map_congr_left fun i hi => by rw [hread i (List.mem_of_mem_filter hi)]]
  have hlong : (List.range n).any (fun i => decide (32 < (len.read i).toNat))
      = (List.range n).any fun i => decide (32 < (len'.read i).toNat) := by
    rw [Bool.eq_iff_iff, List.any_eq_true, List.any_eq_true]
    exact exists_congr fun i => and_congr_right fun hi => by rw [hread i hi]
  rw [buildCanonicalCodes, buildCanonicalCodes, hsorted, hlong]

/-! ## The statements -/

/-- Settles O23: the walk answers, and its values are the Kraft sums of the symbols before. -/
theorem bldcanAssignsCanonicalCodes : Obligations.BldcanAssignsCanonicalCodes := by
  intro s hsize hshort hkraft
  obtain ⟨codes, hwalk⟩ := Option.isSome_iff_exists.mp ((walk_isSome_iff hshort).mpr hkraft)
  have hbuild := (buildCanonicalCodes_of_short hshort).2 codes hwalk
  have hread : ∀ {i}, i < s.size → (storeCodes s.size codes s.code).read i = BitVec.ofNat 32 (valueFor codes i) :=
    fun hi => storeCodes_read_of_lt codes s.code hi hsize
  refine ⟨_, by rw [exec_bldcan, bldcan_of_ok hbuild], rfl, fun i hi => storeCodes_read_of_ge codes s.code hi,
    fun i hi hunused => ?_, fun i hi hused => ?_⟩
  · exact (hread hi).trans (by rw [(walk_values hshort hwalk hi).1 hunused]; rfl)
  · obtain ⟨hlt, hvalue⟩ := (walk_values hshort hwalk hi).2 hused
    rw [← hvalue]
    refine congrArg (· * _) ((congrArg BitVec.toNat (hread hi)).trans ?_)
    rw [BitVec.toNat_ofNat, Nat.mod_eq_of_lt hlt]

/-- Settles O24: the check of the lengths comes first, and then the walk fails. -/
theorem bldcanRefusesBadLengths : Obligations.BldcanRefusesBadLengths := by
  refine fun s => ⟨fun hlong => bldcan_of_error (buildCanonicalCodes_of_long hlong), fun hshort hkraft => ?_⟩
  have hnone : assignCodes 0 0 (sortedLengths s.len s.size) = none := by
    rw [← Option.not_isSome_iff_eq_none, walk_isSome_iff hshort]
    exact Nat.not_le.mpr hkraft
  exact bldcan_of_error ((buildCanonicalCodes_of_short hshort).1 hnone)

/-- Settles O26: the builder answers the same codes, and both tables hold them below SIZE. -/
theorem canonicalCodesDependOnlyOnLengths : Obligations.CanonicalCodesDependOnlyOnLengths := by
  intro s s' hsize hlen t hdone
  have hsame := buildCanonicalCodes_congr hlen
  rw [bldcan] at hdone
  split at hdone
  · cases hdone
  · rename_i codes hcodes
    cases hdone
    have hcodes' : buildCanonicalCodes s'.len s'.size = .ok codes := by rw [← hsize, ← hsame, hcodes]
    refine ⟨_, bldcan_of_ok hcodes', fun i hi hlt => ?_⟩
    simp only [codesBuilt_code, storeCodes, Table.read_tabulate _ hlt, if_pos hi, if_pos (hsize ▸ hi)]

end Sys2Proof.Machine
end

section
/-! SUPPORT. BLDLEN's merge (41_huffman_build.md R122 to R125): what `extractMin` takes out, the merge of a queue as a
relation, the depths of the leaves of its tree with their Kraft sum, and the statements BldlenCompletesWhenCounted,
BldlenSingleSymbol, BldlenLengthsHaveKraftSumOne and BldcanAcceptsBldlenLengths. -/

namespace Sys2Proof.Machine

/-! ## extractMin (41_huffman_build.md R123) -/

/-- `m` comes no later than `x` in the order of weight and sequence number. -/
def QNode.NotAfter (m x : QNode) : Prop := m.weight < x.weight ∨ m.weight = x.weight ∧ m.seq ≤ x.seq

theorem QNode.NotAfter.refl (x : QNode) : x.NotAfter x := .inr ⟨rfl, Nat.le_refl _⟩

theorem QNode.NotAfter.trans {x y z : QNode} (hxy : x.NotAfter y) (hyz : y.NotAfter z) : x.NotAfter z := by
  unfold QNode.NotAfter at *
  omega

theorem QNode.NotAfter.weight_le {x y : QNode} (h : x.NotAfter y) : x.weight ≤ y.weight := by
  unfold QNode.NotAfter at h
  omega

theorem QNode.notAfter_of_before {x m : QNode} (h : x.before m = true) : x.NotAfter m := by
  simp only [QNode.before, decide_eq_true_eq] at h
  unfold QNode.NotAfter
  omega

theorem QNode.notAfter_of_not_before {x m : QNode} (h : ¬ x.before m = true) : m.NotAfter x := by
  simp only [QNode.before, decide_eq_true_eq] at h
  unfold QNode.NotAfter
  omega

/-- The three ways `extractMin` answers on a nonempty queue: its only node, its first node, or the least of the
others. -/
theorem extractMin_cons_cases {x m : QNode} {xs rest : List QNode} (h : extractMin (x :: xs) = some (m, rest)) :
    (xs = [] ∧ m = x ∧ rest = []) ∨
    (∃ n others, extractMin xs = some (n, others) ∧ x.NotAfter n ∧ m = x ∧ rest = xs) ∨
    (∃ others, extractMin xs = some (m, others) ∧ m.NotAfter x ∧ rest = x :: others) := by
  rw [extractMin] at h
  split at h
  · rename_i hnone
    cases h
    exact .inl ⟨extractMin_eq_none.mp hnone, rfl, rfl⟩
  · rename_i n others hsome
    split at h
    · cases h
      exact .inr (.inl ⟨n, others, hsome, QNode.notAfter_of_before ‹_›, rfl, rfl⟩)
    · cases h
      exact .inr (.inr ⟨others, hsome, QNode.notAfter_of_not_before ‹_›, rfl⟩)

/-- The others keep their order. -/
theorem extractMin_split {q rest : List QNode} {m : QNode} (h : extractMin q = some (m, rest)) :
    ∃ xs ys, q = xs ++ m :: ys ∧ rest = xs ++ ys := by
  induction q generalizing m rest with
  | nil => nomatch h
  | cons x q ih =>
    obtain ⟨rfl, rfl, rfl⟩ | ⟨n, others, -, -, rfl, rfl⟩ | ⟨others, htail, -, rfl⟩ := extractMin_cons_cases h
    · exact ⟨[], [], rfl, rfl⟩
    · exact ⟨[], rest, rfl, rfl⟩
    · obtain ⟨xs, ys, rfl, rfl⟩ := ih htail
      exact ⟨x :: xs, ys, rfl, rfl⟩

theorem extractMin_notAfter {q rest : List QNode} {m : QNode} (h : extractMin q = some (m, rest)) :
    ∀ x ∈ q, m.NotAfter x := by
  induction q generalizing m rest with
  | nil => nomatch h
  | cons x q ih =>
    refine List.forall_mem_cons.mpr ?_
    obtain ⟨rfl, rfl, -⟩ | ⟨n, others, htail, hle, rfl, -⟩ | ⟨others, htail, hle, -⟩ := extractMin_cons_cases h
    · exact ⟨.refl m, nofun⟩
    · exact ⟨.refl m, fun y hy => hle.trans (ih htail y hy)⟩
    · exact ⟨hle, ih htail⟩

/-! ## The merge of a queue (41_huffman_build.md R122) -/

/-- The queue `q` merges to the node `r`: two nodes of least weight are joined until one node is left. -/
inductive MergesTo : List QNode → QNode → Prop
  | single (r : QNode) : MergesTo [r] r
  | join {q rest : List QNode} {a b r : QNode} (seq : Nat) (hq : (a :: b :: rest).Perm q)
      (ha : ∀ x ∈ b :: rest, a.weight ≤ x.weight) (hb : ∀ x ∈ rest, b.weight ≤ x.weight)
      (hmerge : MergesTo (rest ++ [a.join b seq]) r) : MergesTo q r

/-- The loop of R122 ends with the one node its queue merges to. -/
theorem mergeQueue_mergesTo {fuel seq : Nat} {q : List QNode} (hne : q ≠ []) (hfuel : q.length ≤ fuel + 1) :
    ∃ r, mergeQueue fuel seq q = [r] ∧ MergesTo q r := by
  induction fuel generalizing seq q with
  | zero =>
    obtain ⟨r, rfl⟩ := List.length_eq_one_iff.mp
      (Nat.le_antisymm hfuel (List.length_pos_iff.mpr hne))
    exact ⟨r, rfl, .single r⟩
  | succ fuel ih =>
    rw [mergeQueue]
    split
    · rename_i hnone
      exact absurd (extractMin_eq_none.mp hnone) hne
    · rename_i a q₁ ha
      have hperm := extractMin_perm ha
      split
      · rename_i hnone
        rw [extractMin_eq_none.mp hnone] at hperm
        cases List.singleton_perm.mp hperm
        exact ⟨a, rfl, .single a⟩
      · rename_i b q₂ hb
        have hperm₁ := extractMin_perm hb
        have hlen := (hperm₁.cons a).trans hperm |>.length_eq
        obtain ⟨r, hr, hmerge⟩ := ih (seq := seq + 1) (q := q₂ ++ [a.join b seq]) (by simp)
          (by simp only [List.length_cons, List.length_append, List.length_nil] at hlen ⊢; omega)
        refine ⟨r, hr, .join seq ((hperm₁.cons a).trans hperm) (fun x hx => ?_) (fun x hx => ?_) hmerge⟩
        · exact (extractMin_notAfter ha x (hperm.subset (List.mem_cons_of_mem a (hperm₁.subset hx)))).weight_le
        · exact (extractMin_notAfter hb x (hperm₁.subset (List.mem_cons_of_mem b hx))).weight_le

/-- The symbols of a merge tree's leaves. -/
def MergeTree.symbols : MergeTree → List Nat
  | .leaf sym => [sym]
  | .synthetic => []
  | .internal l r => l.symbols ++ r.symbols

/-- The merge tree has no synthetic leaf. -/
def MergeTree.Plain : MergeTree → Prop
  | .leaf _ => True
  | .synthetic => False
  | .internal l r => l.Plain ∧ r.Plain

theorem MergesTo.symbols_perm {q : List QNode} {r : QNode} (h : MergesTo q r) :
    (q.flatMap fun x => x.tree.symbols).Perm r.tree.symbols := by
  induction h with
  | single r => simp
  | @join q rest a b r seq hq _ _ _ ih =>
    refine (hq.symm.flatMap_right _).trans (List.Perm.trans ?_ ih)
    simp only [List.flatMap_cons, List.flatMap_append, List.flatMap_nil, QNode.join, MergeTree.symbols,
      List.append_nil]
    rw [← List.append_assoc]
    exact List.perm_append_comm

theorem MergesTo.plain {q : List QNode} {r : QNode} (h : MergesTo q r) (hq : ∀ x ∈ q, x.tree.Plain) :
    r.tree.Plain := by
  induction h with
  | single r => exact hq r (List.mem_singleton_self r)
  | @join q rest a b r seq hperm _ _ _ ih =>
    obtain ⟨ha, htail⟩ := List.forall_mem_cons.mp fun x hx => hq x (hperm.subset hx)
    obtain ⟨hb, hrest⟩ := List.forall_mem_cons.mp htail
    refine ih fun x hx => ?_
    obtain hx | hx := List.mem_append.mp hx
    · exact hrest x hx
    · rw [List.mem_singleton.mp hx]
      exact ⟨ha, hb⟩

/-! ## The depths of the leaves (41_huffman_build.md R122, R125, R127) -/

theorem leafDepths_symbols (t : MergeTree) (d : Nat) : (leafDepths t d).map Prod.fst = t.symbols := by
  induction t generalizing d with
  | leaf sym => rfl
  | synthetic => rfl
  | internal l r ihl ihr => rw [leafDepths, List.map_append, ihl, ihr, MergeTree.symbols]

theorem MergeTree.Plain.symbols_pos {t : MergeTree} (h : t.Plain) : 0 < t.symbols.length := by
  induction t with
  | leaf sym => exact Nat.one_pos
  | synthetic => exact h.elim
  | internal l r ihl _ =>
    rw [MergeTree.symbols, List.length_append]
    exact Nat.add_pos_left (ihl h.1) _

/-- Each merge adds one level at most (R125). -/
theorem MergeTree.Plain.leafDepths_bounds {t : MergeTree} (h : t.Plain) (d : Nat) :
    ∀ p ∈ leafDepths t d, d ≤ p.2 ∧ p.2 < d + t.symbols.length := by
  induction t generalizing d with
  | leaf sym => simp [leafDepths, symbols]
  | synthetic => exact h.elim
  | internal l r ihl ihr =>
    obtain ⟨hl, hr⟩ := h
    have hlpos := hl.symbols_pos
    have hrpos := hr.symbols_pos
    intro p hp
    rw [symbols, List.length_append]
    obtain hp | hp := List.mem_append.mp hp
    · have hbounds := ihl hl (d + 1) p hp
      omega
    · have hbounds := ihr hr (d + 1) p hp
      omega

/-- With two leaves or more none stands at the root. -/
theorem MergeTree.Plain.lt_leafDepth {t : MergeTree} (h : t.Plain) (htwo : 2 ≤ t.symbols.length) (d : Nat) :
    ∀ p ∈ leafDepths t d, d < p.2 := by
  cases t with
  | leaf sym => exact absurd htwo (by simp [symbols])
  | synthetic => exact h.elim
  | internal l r =>
    obtain ⟨hl, hr⟩ := h
    intro p hp
    obtain hp | hp := List.mem_append.mp hp
    · exact (hl.leafDepths_bounds (d + 1) p hp).1
    · exact (hr.leafDepths_bounds (d + 1) p hp).1

/-- The leaves of a binary tree share out the part of the root (R127). -/
theorem MergeTree.Plain.kraftSum_leafDepths {t : MergeTree} (h : t.Plain) {m d : Nat}
    (hdepth : d + t.symbols.length ≤ m + 1) : kraftSum m ((leafDepths t d).map Prod.snd) = 2 ^ (m - d) := by
  induction t generalizing d with
  | leaf sym => simp [leafDepths]
  | synthetic => exact h.elim
  | internal l r ihl ihr =>
    obtain ⟨hl, hr⟩ := h
    have hlpos := hl.symbols_pos
    have hrpos := hr.symbols_pos
    rw [symbols, List.length_append] at hdepth
    rw [leafDepths, List.map_append, kraftSum_append, ihl hl (by omega), ihr hr (by omega), ← Nat.two_mul,
      ← Nat.pow_succ', show (m - (d + 1)).succ = m - d by omega]

/-! ## The queue of leaves (41_huffman_build.md R122) -/

theorem mem_usedSymbols {freq : Table 32} {n i : Nat} : i ∈ usedSymbols freq n ↔ i < n ∧ freq.read i ≠ 0 := by
  simp [usedSymbols]

theorem usedSymbols_nodup (freq : Table 32) (n : Nat) : (usedSymbols freq n).Nodup := List.nodup_range.filter _

theorem usedSymbols_length_le (freq : Table 32) (n : Nat) : (usedSymbols freq n).length ≤ n :=
  (List.length_filter_le _ _).trans (List.length_range).le

theorem freqAt_eq_zero_iff (s : State) (i : Nat) : s.freqAt i = 0 ↔ s.freq.read i = 0 :=
  (BitVec.toNat_eq (y := 0#32)).symm

theorem countedSymbols_eq_usedSymbols (s : State) : s.countedSymbols = usedSymbols s.freq s.size :=
  List.filter_congr fun i _ => decide_eq_decide.mpr (not_congr (freqAt_eq_zero_iff s i))

theorem leafQueue_length (freq : Table 32) (n : Nat) : (leafQueue freq n).length = (usedSymbols freq n).length := by
  simp [leafQueue]

theorem leafQueue_eq_nil {freq : Table 32} {n : Nat} : leafQueue freq n = [] ↔ usedSymbols freq n = [] := by
  rw [← List.length_eq_zero_iff, leafQueue_length, List.length_eq_zero_iff]

/-- Every node of the queue is a leaf that weighs what its symbol's frequency is. -/
theorem mem_leafQueue {freq : Table 32} {n : Nat} {x : QNode} (h : x ∈ leafQueue freq n) :
    ∃ sym, x.tree = .leaf sym ∧ x.weight = (freq.read sym).toNat := by
  obtain ⟨p, -, rfl⟩ := List.mem_map.mp h
  exact ⟨p.1, rfl, rfl⟩

theorem leafQueue_symbols (freq : Table 32) (n : Nat) :
    (leafQueue freq n).flatMap (fun x => x.tree.symbols) = usedSymbols freq n := by
  rw [leafQueue, List.flatMap_map]
  exact List.map_eq_flatMap.symm.trans (List.zipIdx_map_fst 0 _)

theorem leafQueue_weights (freq : Table 32) (n : Nat) :
    (leafQueue freq n).map QNode.weight = (usedSymbols freq n).map fun i => (freq.read i).toNat := by
  rw [leafQueue, List.map_map]
  conv_rhs => rw [← List.zipIdx_map_fst 0 (usedSymbols freq n), List.map_map]
  rfl

/-! ## What `buildCodeLengths` answers (41_huffman_build.md R122, R124, R125) -/

/-- Lengths of at least 1 that fit a LEN entry, one for each of the symbols. -/
structure CodeLengths (syms : List Nat) (lens : List (Nat × Nat)) : Prop where
  keys  : (lens.map Prod.fst).Perm syms
  range : ∀ p ∈ lens, 1 ≤ p.2 ∧ p.2 ≤ 255

/-- Lengths that fit are the builder's answer. -/
theorem buildCodeLengths_of_lengthsOf {freq : Table 32} {n : Nat} {q : List QNode} {lens : List (Nat × Nat)}
    (hne : usedSymbols freq n ≠ []) (hq : withSynthetic (leafQueue freq n) = q)
    (hlens : lengthsOf (mergeQueue q.length q.length q) = lens) (hrange : ∀ p ∈ lens, p.2 ≤ 255) :
    buildCodeLengths freq n = .ok lens := by
  have hfits : ¬ (lens.any fun p => decide (255 < p.2)) = true := by
    simpa using hrange
  subst hq hlens
  rw [buildCodeLengths, if_neg (leafQueue_eq_nil.not.mpr hne)]
  exact if_neg hfits

/-- The synthetic sibling is extracted first, and the one counted symbol gets length 1 (R124). -/
theorem buildCodeLengths_of_single {freq : Table 32} {n sym : Nat} (h : usedSymbols freq n = [sym]) :
    buildCodeLengths freq n = .ok [(sym, 1)] := by
  have hused : sym ∈ usedSymbols freq n := h ▸ List.mem_singleton_self sym
  have hweight : (freq.read sym).toNat ≠ 0 :=
    fun hzero => (mem_usedSymbols.mp hused).2 (BitVec.eq_of_toNat_eq hzero)
  refine buildCodeLengths_of_lengthsOf (q := [.mk (.leaf sym) (freq.read sym).toNat 0, .mk .synthetic 0 1])
    (by simp [h]) (by simp [leafQueue, h, withSynthetic]) ?_ (by simp)
  simp [mergeQueue, extractMin, QNode.before, hweight, QNode.join, lengthsOf, leafDepths]

/-- With two symbols or more the lengths are the depths of the tree the queue merges to. -/
theorem buildCodeLengths_of_many {freq : Table 32} {n : Nat} (hn : n ≤ 256)
    (h : 2 ≤ (usedSymbols freq n).length) :
    ∃ r, MergesTo (leafQueue freq n) r ∧ r.tree.Plain ∧ r.tree.symbols.Perm (usedSymbols freq n) ∧
      CodeLengths (usedSymbols freq n) (leafDepths r.tree 0) ∧
      buildCodeLengths freq n = .ok (leafDepths r.tree 0) := by
  have hlen := leafQueue_length freq n
  have hne : usedSymbols freq n ≠ [] := List.ne_nil_of_length_pos (by omega)
  obtain ⟨r, hr, hmerge⟩ := mergeQueue_mergesTo (fuel := (leafQueue freq n).length)
    (seq := (leafQueue freq n).length) (leafQueue_eq_nil.not.mpr hne) (Nat.le_succ _)
  have hplain : r.tree.Plain := hmerge.plain fun x hx => by
    obtain ⟨sym, htree, -⟩ := mem_leafQueue hx
    rw [htree]
    trivial
  have hsyms : r.tree.symbols.Perm (usedSymbols freq n) := leafQueue_symbols freq n ▸ hmerge.symbols_perm.symm
  have hcount := hsyms.length_eq
  have hle := usedSymbols_length_le freq n
  have hrange : ∀ p ∈ leafDepths r.tree 0, 1 ≤ p.2 ∧ p.2 ≤ 255 := fun p hp => by
    have hpos := hplain.lt_leafDepth (by omega) 0 p hp
    have hbounds := hplain.leafDepths_bounds 0 p hp
    omega
  refine ⟨r, hmerge, hplain, hsyms, ⟨(leafDepths_symbols _ _).symm ▸ hsyms, hrange⟩,
    buildCodeLengths_of_lengthsOf hne (if_neg (by omega)) ?_ fun p hp => (hrange p hp).2⟩
  rw [hr, lengthsOf, List.flatMap_singleton]
  exact (List.map_congr_left fun p hp => by rw [Nat.max_eq_left (hrange p hp).1, id]).trans (List.map_id _)

/-- BLDLEN's lengths have Kraft sum 1/2 for one symbol and 1 for more (R127). -/
theorem buildCodeLengths_of_used {freq : Table 32} {n : Nat} (hn : n ≤ 256) (hne : usedSymbols freq n ≠ []) :
    ∃ lens, buildCodeLengths freq n = .ok lens ∧ CodeLengths (usedSymbols freq n) lens ∧
      kraftSum 255 (lens.map Prod.snd) = if (usedSymbols freq n).length = 1 then 2 ^ 254 else 2 ^ 255 := by
  by_cases hone : (usedSymbols freq n).length = 1
  · obtain ⟨sym, hsym⟩ := List.length_eq_one_iff.mp hone
    exact ⟨_, buildCodeLengths_of_single hsym, by rw [hsym]; exact ⟨.refl _, by simp⟩, by simp [hone, kraftSum]⟩
  · have hpos := List.length_pos_iff.mpr hne
    have hle := usedSymbols_length_le freq n
    obtain ⟨r, -, hplain, hsyms, hlens, hbuild⟩ := buildCodeLengths_of_many (freq := freq) hn (by omega)
    have hcount := hsyms.length_eq
    exact ⟨_, hbuild, hlens, by rw [hplain.kraftSum_leafDepths (by omega), if_neg hone, Nat.sub_zero]⟩

/-! ## The state BLDLEN leaves -/

/-- `s` after a BLDLEN that found the lengths `lens`. -/
def State.afterBldlen (s : State) (lens : List (Nat × Nat)) : State :=
  { s with len := storeLengths s.size lens s.len, codesValid := false, treeValid := false, pending := none }

theorem exec_bldlen_of_ok {s : State} {lens : List (Nat × Nat)} (h : buildCodeLengths s.freq s.size = .ok lens) :
    exec .bldlen s = .next (s.afterBldlen lens) := by
  rw [exec_bldlen, bldlen, h]
  rfl

theorem exec_bldlen_of_uncounted {s : State} (h : s.countedSymbols = []) :
    exec .bldlen s = .next (s.failed 0x06) := by
  rw [countedSymbols_eq_usedSymbols] at h
  have hbuild : buildCodeLengths s.freq s.size = .error .freqZero := if_pos (leafQueue_eq_nil.mpr h)
  rw [exec_bldlen, bldlen, hbuild, settle_error_self]
  rfl

section
variable {s : State} {lens : List (Nat × Nat)}

/-- LEN holds the lengths found; those fit its 8 bits (R125). -/
theorem lenAt_afterBldlen_of_mem (hsize : s.size ≤ 256) (hlens : CodeLengths s.countedSymbols lens) {p : Nat × Nat}
    (hp : p ∈ lens) : (s.afterBldlen lens).lenAt p.1 = p.2 := by
  have hcounted : p.1 ∈ s.countedSymbols := hlens.keys.subset (List.mem_map_of_mem hp)
  have hnodup : (lens.map Prod.fst).Nodup :=
    hlens.keys.nodup_iff.mpr (countedSymbols_eq_usedSymbols s ▸ usedSymbols_nodup _ _)
  have hlt : p.1 < s.size := (mem_usedSymbols.mp (countedSymbols_eq_usedSymbols s ▸ hcounted)).1
  have hfits := (hlens.range p hp).2
  rw [State.lenAt, State.afterBldlen, storeLengths, Table.read_tabulate _ (by omega), if_pos hlt,
    valueFor_of_mem hnodup hp, BitVec.toNat_ofNat, Nat.mod_eq_of_lt (by omega)]

theorem lenAt_afterBldlen_of_not_counted (hsize : s.size ≤ 256) (hlens : CodeLengths s.countedSymbols lens) {i : Nat}
    (hi : i < s.size) (hzero : i ∉ s.countedSymbols) : (s.afterBldlen lens).lenAt i = 0 := by
  rw [State.lenAt, State.afterBldlen, storeLengths, Table.read_tabulate _ (by omega), if_pos hi,
    valueFor_of_not_mem (hlens.keys.mem_iff.not.mpr hzero)]
  rfl

/-- A sum over the counted symbols with their new entries of LEN is a sum over the lengths found. -/
theorem map_countedSymbols_perm {α : Type} (hsize : s.size ≤ 256) (hlens : CodeLengths s.countedSymbols lens)
    (g : Nat → Nat → α) :
    (s.countedSymbols.map fun i => g i ((s.afterBldlen lens).lenAt i)).Perm (lens.map fun p => g p.1 p.2) := by
  refine (hlens.keys.symm.map _).trans (.of_eq ?_)
  rw [List.map_map]
  exact List.map_congr_left fun p hp => congrArg (g p.1) (lenAt_afterBldlen_of_mem hsize hlens hp)

theorem lenAt_afterBldlen_eq_zero_iff (hsize : s.size ≤ 256) (hlens : CodeLengths s.countedSymbols lens) {i : Nat}
    (hi : i < s.size) : (s.afterBldlen lens).lenAt i = 0 ↔ i ∉ s.countedSymbols := by
  refine ⟨fun hzero hcounted => ?_, lenAt_afterBldlen_of_not_counted hsize hlens hi⟩
  obtain ⟨p, hp, rfl⟩ := List.mem_map.mp (hlens.keys.mem_iff.mpr hcounted)
  have hpos := (hlens.range p hp).1
  rw [lenAt_afterBldlen_of_mem hsize hlens hp] at hzero
  omega

/-- The Kraft sum of the new LEN is that of the lengths found. -/
theorem kraft_afterBldlen (hsize : s.size ≤ 256) (hlens : CodeLengths s.countedSymbols lens) (m : Nat) :
    (s.afterBldlen lens).kraft m (List.range s.size) = kraftSum m (lens.map Prod.snd) := by
  have hused : (List.range s.size).filter (fun i => decide ((s.afterBldlen lens).lenAt i ≠ 0)) = s.countedSymbols := by
    refine List.filter_congr fun i hi => decide_eq_decide.mpr ?_
    rw [ne_eq, lenAt_afterBldlen_eq_zero_iff hsize hlens (List.mem_range.mp hi), not_not]
    simp [State.countedSymbols, List.mem_range.mp hi]
  rw [kraft_eq_kraftSum, hused]
  exact kraftSum_perm (map_countedSymbols_perm hsize hlens fun _ l => l)

end

/-- BLDLEN with a counted symbol completes, with lengths as `buildCodeLengths_of_used` says. -/
theorem exec_bldlen_of_counted {s : State} (hsize : s.size ≤ 256) (hne : s.countedSymbols ≠ []) :
    ∃ lens, exec .bldlen s = .next (s.afterBldlen lens) ∧ CodeLengths s.countedSymbols lens ∧
      (s.afterBldlen lens).kraft 255 (List.range s.size)
        = if s.countedSymbols.length = 1 then 2 ^ 254 else 2 ^ 255 := by
  have heq := countedSymbols_eq_usedSymbols s
  obtain ⟨lens, hbuild, hlens, hkraft⟩ := buildCodeLengths_of_used hsize (heq ▸ hne)
  rw [← heq] at hlens hkraft
  exact ⟨lens, exec_bldlen_of_ok hbuild, hlens, (kraft_afterBldlen hsize hlens 255).trans hkraft⟩

/-! ## The statements -/

/-- Settles O20: the lengths found belong to exactly the counted symbols. -/
theorem bldlenCompletesWhenCounted : Obligations.BldlenCompletesWhenCounted := by
  refine fun s hsize => ⟨fun hne => ?_, exec_bldlen_of_uncounted⟩
  obtain ⟨lens, hexec, hlens, -⟩ := exec_bldlen_of_counted hsize hne
  refine ⟨_, hexec, rfl, fun i hi => storeLengths_read_of_ge lens s.len hi, fun i hi => ?_⟩
  rw [lenAt_afterBldlen_eq_zero_iff hsize hlens hi]
  simp [State.countedSymbols, hi]

/-- Settles O21: the builder answers the one pair of the symbol and 1. -/
theorem bldlenSingleSymbol : Obligations.BldlenSingleSymbol := by
  intro s sym hsize hsingle
  have hbuild := buildCodeLengths_of_single (countedSymbols_eq_usedSymbols s ▸ hsingle)
  have hlens : CodeLengths s.countedSymbols [(sym, 1)] := hsingle ▸ ⟨.refl _, by simp⟩
  refine ⟨_, exec_bldlen_of_ok hbuild, lenAt_afterBldlen_of_mem hsize hlens (List.mem_singleton_self _),
    fun i hi hne => lenAt_afterBldlen_of_not_counted hsize hlens hi ?_⟩
  rw [hsingle]
  exact List.mem_singleton.not.mpr hne

/-- Settles O22, in the two cases of `exec_bldlen_of_counted`. -/
theorem bldlenLengthsHaveKraftSumOne : Obligations.BldlenLengthsHaveKraftSumOne := by
  refine fun s hsize => ⟨fun htwo => ?_, fun hone => ?_⟩
  · obtain ⟨lens, hexec, -, hkraft⟩ := exec_bldlen_of_counted hsize (List.ne_nil_of_length_pos (by omega))
    exact ⟨_, hexec, hkraft.trans (if_neg (by omega))⟩
  · obtain ⟨lens, hexec, -, hkraft⟩ := exec_bldlen_of_counted hsize (List.ne_nil_of_length_pos (by omega))
    exact ⟨_, hexec, hkraft.trans (if_pos hone)⟩

/-- A Kraft sum of at most 1 is one in any unit that all lengths fit. -/
theorem kraft_le_of_kraft_add_le {s : State} {m d : Nat} (h : ∀ i, i < s.size → s.lenAt i ≤ m)
    (hkraft : s.kraft (m + d) (List.range s.size) ≤ 2 ^ (m + d)) : s.kraft m (List.range s.size) ≤ 2 ^ m := by
  have hle : ∀ l ∈ (sortedLengths s.len s.size).map Prod.fst, l ≤ m :=
    List.forall_mem_map.mpr fun p hp => sortedLengths_le h hp
  rw [← kraftSum_sortedLengths, kraftSum_add m d hle, Nat.pow_add] at hkraft
  rw [← kraftSum_sortedLengths]
  exact Nat.le_of_mul_le_mul_right hkraft (Nat.two_pow_pos d)

/-- Settles O25: the Kraft sum of the lengths is 1 or 1/2, so only the check of the lengths can fail. -/
theorem bldcanAcceptsBldlenLengths : Obligations.BldcanAcceptsBldlenLengths := by
  intro s t hsize hne hexec
  refine ⟨fun hshort => ?_, (bldcanRefusesBadLengths t).1⟩
  obtain ⟨lens, hexec', -, hkraft⟩ := exec_bldlen_of_counted hsize hne
  cases hexec'.symm.trans hexec
  have hle : (s.afterBldlen lens).kraft (32 + 223) (List.range s.size) ≤ 2 ^ (32 + 223) := by
    rw [hkraft]
    split <;> decide
  obtain ⟨u, hu, hframe, -⟩ := bldcanAssignsCanonicalCodes (s.afterBldlen lens) hsize hshort
    (kraft_le_of_kraft_add_le hshort hle)
  exact ⟨u, hu, by rw [hframe], by rw [hframe]⟩

end Sys2Proof.Machine
end

section
/-! SUPPORT. The optimality of the merge (41_huffman_build.md R122, R123, R125): lengths of Kraft sum at most 1 can be
exchanged so that the two lightest nodes have one and the same longest length, and then joining these two loses
nothing; the statement ExtractMinTakesTheOldestLightest. -/

namespace Sys2Proof.Machine

/-! ## Weights with code lengths -/

/-- The total length of a text in which each weight, given with its code length, occurs as often as it says. -/
def codedLength (pairs : List (Nat × Nat)) : Nat := (pairs.map fun p => p.1 * p.2).sum

@[simp] theorem codedLength_cons (w l : Nat) (pairs : List (Nat × Nat)) :
    codedLength ((w, l) :: pairs) = w * l + codedLength pairs := by
  simp [codedLength]

@[simp] theorem codedLength_nil : codedLength [] = 0 := rfl

theorem codedLength_append (xs ys : List (Nat × Nat)) : codedLength (xs ++ ys) = codedLength xs + codedLength ys := by
  simp [codedLength]

theorem codedLength_perm {xs ys : List (Nat × Nat)} (h : xs.Perm ys) : codedLength xs = codedLength ys :=
  (h.map _).sum_eq

/-- Lengths of at most `m` with Kraft sum at most 1. -/
structure Fits (m : Nat) (lengths : List Nat) : Prop where
  le    : ∀ l ∈ lengths, l ≤ m
  kraft : kraftSum m lengths ≤ 2 ^ m

theorem Fits.perm {m : Nat} {xs ys : List Nat} (h : Fits m xs) (hperm : ys.Perm xs) : Fits m ys :=
  ⟨fun l hl => h.le l (hperm.subset hl), kraftSum_perm hperm ▸ h.kraft⟩

/-! ## The exchange -/

/-- Of two weights the lighter can take the longer of their lengths. -/
theorem exists_exchange_two {v w : Nat} (hvw : v ≤ w) (l k : Nat) :
    ∃ l' k', k' ≤ l' ∧ [l', k'].Perm [l, k] ∧ v * l' + w * k' ≤ v * l + w * k := by
  obtain hkl | hlk := Nat.le_total k l
  · exact ⟨l, k, hkl, .refl _, Nat.le_refl _⟩
  · refine ⟨k, l, hlk, .swap _ _ _, ?_⟩
    obtain ⟨x, rfl⟩ := Nat.exists_eq_add_of_le hvw
    obtain ⟨y, rfl⟩ := Nat.exists_eq_add_of_le hlk
    have hgain : v * l + (v + x) * (l + y) = v * (l + y) + (v + x) * l + x * y := by ring
    omega

/-- The least weight can take the greatest length: the others keep their weights, the lengths are permuted, and the
text gets no longer. -/
theorem exists_exchange {v l : Nat} {pairs : List (Nat × Nat)} (hleast : ∀ p ∈ pairs, v ≤ p.1) :
    ∃ (l' : Nat) (pairs' : List (Nat × Nat)), pairs'.map Prod.fst = pairs.map Prod.fst ∧
      (l' :: pairs'.map Prod.snd).Perm (l :: pairs.map Prod.snd) ∧ (∀ p ∈ pairs', p.2 ≤ l') ∧
      codedLength ((v, l') :: pairs') ≤ codedLength ((v, l) :: pairs) := by
  induction pairs generalizing l with
  | nil => exact ⟨l, [], rfl, .refl _, nofun, Nat.le_refl _⟩
  | cons p pairs ih =>
    obtain ⟨w, k⟩ := p
    obtain ⟨hvw, hrest⟩ : v ≤ w ∧ ∀ p ∈ pairs, v ≤ p.1 := List.forall_mem_cons.mp hleast
    obtain ⟨l₁, k', hle, hswap, hpair⟩ := exists_exchange_two hvw l k
    obtain ⟨l', pairs', hfst, hperm, hmax, htotal⟩ := ih (l := l₁) hrest
    have hl₁ : l₁ ≤ l' := by
      obtain heq | hmem := List.mem_cons.mp (hperm.symm.subset List.mem_cons_self)
      · exact heq.le
      · exact (List.forall_mem_map (P := (· ≤ l'))).mpr hmax l₁ hmem
    refine ⟨l', (w, k') :: pairs', by rw [List.map_cons, List.map_cons, hfst], ?_,
      List.forall_mem_cons.mpr ⟨hle.trans hl₁, hmax⟩, ?_⟩
    · calc List.Perm (l' :: k' :: pairs'.map Prod.snd) (k' :: l' :: pairs'.map Prod.snd) := .swap _ _ _
        List.Perm _ (k' :: l₁ :: pairs.map Prod.snd) := hperm.cons k'
        List.Perm _ (l₁ :: k' :: pairs.map Prod.snd) := .swap _ _ _
        List.Perm _ (l :: k :: pairs.map Prod.snd) := hswap.append_right _
    · simp only [codedLength_cons] at htotal ⊢
      omega

/-! ## Joining the two lightest -/

/-- A multiple of `u` below a multiple of `u` stays below it when one `u` is added. -/
theorem add_le_of_dvd_of_lt {u x y : Nat} (hx : u ∣ x) (hy : u ∣ y) (h : x < y) : x + u ≤ y := by
  obtain ⟨i, rfl⟩ := hx
  obtain ⟨j, rfl⟩ := hy
  have hij : i < j := Nat.lt_of_mul_lt_mul_left h
  calc u * i + u = u * (i + 1) := (Nat.mul_succ u i).symm
    _ ≤ u * j := Nat.mul_le_mul_left u hij

theorem two_pow_dvd_kraftSum {m k : Nat} {lengths : List Nat} (h : ∀ l ∈ lengths, l ≤ k) :
    2 ^ (m - k) ∣ kraftSum m lengths :=
  List.dvd_sum (List.forall_mem_map.mpr fun l hl => Nat.pow_dvd_pow 2 (Nat.sub_le_sub_left (h l hl) m))

/-- Where no other length exceeds `k`, two codes of `l` and `k` bits can be replaced by the parent of two codes of `k`
bits: the other codes are multiples of the part of the latter, so the whole has room for two of them. -/
theorem Fits.join {m k l : Nat} {lengths : List Nat} (h : Fits m (l :: k :: lengths))
    (hmax : ∀ x ∈ lengths, x ≤ k) : 1 ≤ k ∧ Fits m (lengths ++ [k - 1]) := by
  obtain ⟨hle, hkraft⟩ := h
  obtain ⟨-, hk, hlengths⟩ : l ≤ m ∧ k ≤ m ∧ ∀ x ∈ lengths, x ≤ m := by simpa using hle
  rw [kraftSum_cons, kraftSum_cons] at hkraft
  have hdvd : 2 ^ (m - k) ∣ 2 ^ (m - k) + kraftSum m lengths :=
    (Nat.dvd_add_right (Nat.dvd_refl _)).mpr (two_pow_dvd_kraftSum hmax)
  have hpos := Nat.two_pow_pos (m - l)
  have hroom := add_le_of_dvd_of_lt hdvd (Nat.pow_dvd_pow 2 (Nat.sub_le m k)) (by omega)
  have hone : 1 ≤ k := by
    refine Nat.one_le_iff_ne_zero.mpr fun hzero => ?_
    have hunit := Nat.two_pow_pos m
    rw [hzero, Nat.sub_zero] at hroom
    omega
  have hdouble : 2 ^ (m - (k - 1)) = 2 ^ (m - k) + 2 ^ (m - k) := by
    rw [← Nat.two_mul, ← Nat.pow_succ', show (m - k).succ = m - (k - 1) by omega]
  refine ⟨hone, fun x hx => ?_, ?_⟩
  · obtain hx | hx := List.mem_append.mp hx
    · exact hlengths x hx
    · rw [List.mem_singleton.mp hx]
      omega
  · rw [kraftSum_append, kraftSum_cons, kraftSum_nil, hdouble]
    omega

/-- Pairs can be put into the order of any arrangement of their weights. -/
theorem exists_perm_with_weights {pairs : List (Nat × Nat)} {weights : List Nat}
    (h : (pairs.map Prod.fst).Perm weights) :
    ∃ pairs' : List (Nat × Nat), pairs'.map Prod.fst = weights ∧ pairs'.Perm pairs := by
  have hcomp := congrFun₂ (List.eq_map_comp_perm (Prod.fst (α := Nat) (β := Nat))) weights pairs
  obtain ⟨pairs', heq, hperm⟩ := hcomp.mpr h.symm
  exact ⟨pairs', heq.symm, hperm⟩

/-- The two least weights can take the two greatest lengths. -/
theorem exists_exchange_least_two {v w l k : Nat} {pairs : List (Nat × Nat)} (hvw : v ≤ w)
    (hw : ∀ p ∈ pairs, w ≤ p.1) :
    ∃ (l' k' : Nat) (pairs' : List (Nat × Nat)), pairs'.map Prod.fst = pairs.map Prod.fst ∧
      (l' :: k' :: pairs'.map Prod.snd).Perm (l :: k :: pairs.map Prod.snd) ∧ k' ≤ l' ∧ (∀ p ∈ pairs', p.2 ≤ k') ∧
      codedLength ((v, l') :: (w, k') :: pairs') ≤ codedLength ((v, l) :: (w, k) :: pairs) := by
  have hv : ∀ p ∈ (w, k) :: pairs, v ≤ p.1 :=
    List.forall_mem_cons.mpr ⟨hvw, fun p hp => hvw.trans (hw p hp)⟩
  obtain ⟨l', outer, hfst, hperm, hmax, htotal⟩ := exists_exchange (l := l) hv
  obtain _ | ⟨⟨w', k₁⟩, pairs₁⟩ := outer
  · nomatch hfst
  obtain ⟨rfl, hfst₁⟩ : w' = w ∧ pairs₁.map Prod.fst = pairs.map Prod.fst := List.cons_eq_cons.mp hfst
  have hw₁ : ∀ p ∈ pairs₁, w' ≤ p.1 := by
    rw [← List.forall_mem_map (P := (w' ≤ ·)), hfst₁, List.forall_mem_map]
    exact hw
  obtain ⟨k', pairs', hfst', hperm', hmax', htotal'⟩ := exists_exchange (l := k₁) hw₁
  have hk' : k' ≤ l' := by
    have hmem : k' ∈ ((w', k₁) :: pairs₁).map Prod.snd := hperm'.subset List.mem_cons_self
    exact (List.forall_mem_map (P := (· ≤ l'))).mpr hmax k' hmem
  refine ⟨l', k', pairs', hfst'.trans hfst₁, (hperm'.cons l').trans hperm, hk', hmax', ?_⟩
  simp only [codedLength_cons] at htotal htotal' ⊢
  omega

/-- Lengths for weights of which `v` and `w` are the two least give lengths for the weights with these two joined, and
the text gets shorter by the joined weight at least. -/
theorem exists_joined_lengths {m v w : Nat} {weights : List Nat} {pairs : List (Nat × Nat)}
    (hfst : (pairs.map Prod.fst).Perm (v :: w :: weights)) (hvw : v ≤ w) (hw : ∀ x ∈ weights, w ≤ x)
    (hfits : Fits m (pairs.map Prod.snd)) :
    ∃ pairs' : List (Nat × Nat), pairs'.map Prod.fst = weights ++ [v + w] ∧ Fits m (pairs'.map Prod.snd) ∧
      codedLength pairs' + (v + w) ≤ codedLength pairs := by
  obtain ⟨_ | ⟨⟨v', l⟩, _ | ⟨⟨w', k⟩, rest⟩⟩, harranged, hperm⟩ := exists_perm_with_weights hfst
  · nomatch harranged
  · nomatch harranged
  simp only [List.map_cons, List.cons.injEq] at harranged
  obtain ⟨rfl, rfl, rfl⟩ := harranged
  obtain ⟨l', k', pairs', hfst', hperm', hkl, hmax, htotal⟩ :=
    exists_exchange_least_two (l := l) (k := k) hvw (List.forall_mem_map.mp hw)
  obtain ⟨hone, hjoined⟩ := (hfits.perm (hperm'.trans (hperm.map Prod.snd))).join
    ((List.forall_mem_map (P := (· ≤ k'))).mpr hmax)
  refine ⟨pairs' ++ [(v' + w', k' - 1)], by simp [hfst'], by simpa using hjoined, ?_⟩
  have hparent : (v' + w') * (k' - 1) + (v' + w') = v' * k' + w' * k' := by
    rw [← Nat.mul_succ, Nat.succ_eq_add_one, Nat.sub_add_cancel hone, Nat.add_mul]
  have hlonger := Nat.mul_le_mul_left v' hkl
  rw [← codedLength_perm hperm, codedLength_append]
  simp only [codedLength_cons, codedLength_nil] at htotal ⊢
  omega

/-! ## The merge is optimal (41_huffman_build.md R122) -/

/-- The weight of a merge tree under the frequencies `f`. -/
def MergeTree.frequency (f : Nat → Nat) (t : MergeTree) : Nat := (t.symbols.map f).sum

/-- The total length of a text with the frequencies `f`, coded by the leaves of a merge tree at depth `d`. -/
def MergeTree.textLength (f : Nat → Nat) (t : MergeTree) (d : Nat) : Nat :=
  ((leafDepths t d).map fun p => f p.1 * p.2).sum

theorem MergeTree.textLength_internal (f : Nat → Nat) (l r : MergeTree) (d : Nat) :
    (internal l r).textLength f d = l.textLength f (d + 1) + r.textLength f (d + 1) := by
  simp [textLength, leafDepths]

theorem MergeTree.frequency_internal (f : Nat → Nat) (l r : MergeTree) :
    (internal l r).frequency f = l.frequency f + r.frequency f := by
  simp [frequency, symbols]

/-- One level deeper every occurrence of a symbol costs one bit more. -/
theorem MergeTree.textLength_succ (f : Nat → Nat) (t : MergeTree) (d : Nat) :
    t.textLength f (d + 1) = t.textLength f d + t.frequency f := by
  induction t generalizing d with
  | leaf sym => simp [textLength, leafDepths, frequency, symbols, Nat.mul_succ]
  | synthetic => rfl
  | internal l r ihl ihr =>
    rw [textLength_internal, textLength_internal, ihl, ihr, frequency_internal]
    omega

/-- A join costs as many bits as it weighs. -/
theorem MergeTree.textLength_join (f : Nat → Nat) (l r : MergeTree) : (internal l r).textLength f 0 =
    l.textLength f 0 + r.textLength f 0 + (l.frequency f + r.frequency f) := by
  rw [textLength_internal, textLength_succ, textLength_succ]
  omega

/-- No lengths for the nodes of a queue code the text in fewer bits than the tree the queue merges to. -/
theorem MergesTo.textLength_le {f : Nat → Nat} {m : Nat} {q : List QNode} {r : QNode} (h : MergesTo q r)
    (hweight : ∀ x ∈ q, x.weight = x.tree.frequency f) {pairs : List (Nat × Nat)}
    (hfst : (pairs.map Prod.fst).Perm (q.map QNode.weight)) (hfits : Fits m (pairs.map Prod.snd)) :
    r.tree.textLength f 0 ≤ (q.map fun x => x.tree.textLength f 0).sum + codedLength pairs := by
  induction h generalizing pairs with
  | single r => simp
  | @join q rest a b r seq hq ha hb _ ih =>
    obtain ⟨hab, -⟩ := List.forall_mem_cons.mp ha
    obtain ⟨haw, htail⟩ := List.forall_mem_cons.mp fun x hx => hweight x (hq.subset hx)
    obtain ⟨hbw, hrest⟩ := List.forall_mem_cons.mp htail
    obtain ⟨pairs', hfst', hfits', hshorter⟩ := exists_joined_lengths (hfst.trans (hq.symm.map _)) hab
      (List.forall_mem_map.mpr hb) hfits
    have hjoinw : (a.join b seq).weight = (a.join b seq).tree.frequency f := by
      rw [QNode.join, haw, hbw]
      exact (MergeTree.frequency_internal f a.tree b.tree).symm
    have hmerged := ih (List.forall_mem_append.mpr ⟨hrest, List.forall_mem_singleton.mpr hjoinw⟩)
      (.of_eq (by rw [hfst', List.map_append]; rfl)) hfits'
    have hjoin : (a.join b seq).tree.textLength f 0
        = a.tree.textLength f 0 + b.tree.textLength f 0 + (a.weight + b.weight) := by
      rw [haw, hbw]
      exact MergeTree.textLength_join f a.tree b.tree
    rw [← (hq.map _).sum_eq]
    simp only [List.map_append, List.sum_append, List.map_cons, List.sum_cons, List.map_nil, List.sum_nil, hjoin]
      at hmerged ⊢
    omega

/-- The tree that the queue of leaves merges to codes the text in the fewest bits. -/
theorem textLength_le_of_leafQueue {freq : Table 32} {n m : Nat} {r : QNode} (h : MergesTo (leafQueue freq n) r)
    {lens : Nat → Nat} (hfits : Fits m ((usedSymbols freq n).map lens)) :
    r.tree.textLength (fun i => (freq.read i).toNat) 0
      ≤ ((usedSymbols freq n).map fun i => (freq.read i).toNat * lens i).sum := by
  have hleaf : ∀ x ∈ leafQueue freq n, x.weight = x.tree.frequency (fun i => (freq.read i).toNat) ∧
      x.tree.textLength (fun i => (freq.read i).toNat) 0 = 0 := fun x hx => by
    obtain ⟨sym, htree, hweight⟩ := mem_leafQueue hx
    rw [htree, hweight]
    exact ⟨rfl, rfl⟩
  have hle := h.textLength_le (pairs := (usedSymbols freq n).map fun i => ((freq.read i).toNat, lens i))
    (fun x hx => (hleaf x hx).1) (.of_eq (by rw [leafQueue_weights, List.map_map]; rfl))
    (by rw [List.map_map]; exact hfits)
  rwa [List.map_congr_left fun x hx => (hleaf x hx).2, List.map_const', List.sum_replicate, smul_zero, Nat.zero_add,
    codedLength, List.map_map] at hle

/-! ## The statement -/

/-- Settles O19: the split and the order of `extractMin`, and the optimality of the merge it leads to. -/
theorem extractMinTakesTheOldestLightest : Obligations.ExtractMinTakesTheOldestLightest := by
  refine ⟨fun q rest m h => ⟨extractMin_split h, extractMin_notAfter h⟩, fun s hsize hne => ?_⟩
  by_cases hone : s.countedSymbols.length = 1
  · obtain ⟨sym, hsingle⟩ := List.length_eq_one_iff.mp hone
    obtain ⟨t, hexec, hlen, -⟩ := bldlenSingleSymbol s sym hsize hsingle
    refine ⟨t, hexec, fun m lens hrange _ => ?_⟩
    have hpos := (hrange sym (hsingle ▸ List.mem_singleton_self sym)).1
    simpa [State.textLength, hsingle, hlen] using Nat.le_mul_of_pos_right _ hpos
  · have heq := countedSymbols_eq_usedSymbols s
    have hcount := List.length_pos_iff.mpr hne
    obtain ⟨r, hmerge, -, -, hlens, hbuild⟩ := buildCodeLengths_of_many (freq := s.freq) hsize (by rw [← heq]; omega)
    refine ⟨_, exec_bldlen_of_ok hbuild, fun m lens hrange hkraft => ?_⟩
    rw [← heq] at hlens
    have hfits : Fits m (s.countedSymbols.map lens) :=
      ⟨List.forall_mem_map.mpr fun i hi => (hrange i hi).2, by rwa [kraftSum, List.map_map]⟩
    calc s.textLength (s.afterBldlen (leafDepths r.tree 0)).lenAt
        = r.tree.textLength s.freqAt 0 :=
          (map_countedSymbols_perm hsize hlens fun i l => s.freqAt i * l).sum_eq
      _ ≤ s.textLength lens := by
          rw [State.textLength]
          rw [heq] at hfits ⊢
          exact textLength_le_of_leafQueue hmerge hfits

end Sys2Proof.Machine
end

section
/-! SUPPORT. The codes as bit strings (42_huffman_tree.md R141): the code of a symbol is its Kraft sum in as many bits
as its length, so a code that came before another is no beginning of it; the statement CodesArePrefixFree. -/

namespace Sys2Proof.Machine

/-! ## Bit strings (20_memory.md R71) -/

theorem lowBits_getElem {w : Nat} (v : BitVec w) {n i : Nat} (h : i < (lowBits v n).length) :
    (lowBits v n)[i] = v.getLsbD (n - 1 - i) := by
  induction n generalizing i with
  | zero => exact absurd h (Nat.not_lt_zero i)
  | succ n ih =>
    cases i with
    | zero => rfl
    | succ i =>
      rw [show n + 1 - 1 - (i + 1) = n - 1 - i by omega]
      exact ih _

/-- Where the bits of `v` begin those of `x`, they are the upper bits of `x`. -/
theorem toNat_eq_shiftRight_of_lowBits_prefix {w : Nat} {v x : BitVec w} {n m : Nat} (hv : v.toNat < 2 ^ n)
    (hx : x.toNat < 2 ^ m) (h : lowBits v n <+: lowBits x m) : v.toNat = x.toNat >>> (m - n) := by
  have hle : n ≤ m := by simpa using h.length_le
  apply Nat.eq_of_testBit_eq
  intro j
  rw [Nat.testBit_shiftRight]
  by_cases hj : j < n
  · have hbit := h.getElem (i := n - 1 - j) (by rw [lowBits_length]; omega)
    rw [lowBits_getElem, lowBits_getElem, show n - 1 - (n - 1 - j) = j by omega,
      show m - 1 - (n - 1 - j) = m - n + j by omega] at hbit
    exact hbit
  · have hvhigh : v.toNat < 2 ^ j := hv.trans_le (Nat.pow_le_pow_right (by decide) (by omega))
    have hxhigh : x.toNat < 2 ^ (m - n + j) := hx.trans_le (Nat.pow_le_pow_right (by decide) (by omega))
    rw [Nat.testBit_lt_two_pow hvhigh, Nat.testBit_lt_two_pow hxhigh]

/-! ## The codes of a state (41_huffman_build.md R126, 10_state.md R45) -/

/-- A builder that answers has found no length above 32, and its walk answers. -/
theorem buildCanonicalCodes_eq_ok {s : State} {codes : List (Nat × Nat)}
    (h : buildCanonicalCodes s.len s.size = .ok codes) :
    (∀ i, i < s.size → s.lenAt i ≤ 32) ∧ assignCodes 0 0 (sortedLengths s.len s.size) = some codes := by
  have hshort : ∀ i, i < s.size → s.lenAt i ≤ 32 := fun i => lengths_le_of_buildCanonicalCodes h
  obtain ⟨hnone, hsome⟩ := buildCanonicalCodes_of_short hshort
  cases hwalk : assignCodes 0 0 (sortedLengths s.len s.size) with
  | none => exact nomatch (hnone hwalk).symm.trans h
  | some found =>
    obtain rfl : found = codes := Except.ok.inj ((hsome found hwalk).symm.trans h)
    exact ⟨hshort, rfl⟩

theorem codeBits_length (s : State) (a : Nat) : (s.codeBits a).length = s.lenAt a := lowBits_length _ _

section
variable {s : State} {a b : Nat}

/-- A symbol's code fits its length and, scaled to 32 bits, is the Kraft sum of the symbols before it. -/
theorem codeAt_toNat (hs : Inv s) (hvalid : s.codesValid = true) (ha : s.coded a) :
    (s.codeAt a).toNat < 2 ^ s.lenAt a ∧
    (s.codeAt a).toNat * 2 ^ (32 - s.lenAt a) = s.kraft 32 (s.codedBefore a) := by
  obtain ⟨hlt, hused⟩ := ha
  obtain ⟨-, codes, hbuild, hcode⟩ := hs.codes hvalid
  obtain ⟨hshort, hwalk⟩ := buildCanonicalCodes_eq_ok hbuild
  obtain ⟨hfits, hvalue⟩ := assignCodes_value (m := 32) hwalk (sortedLengths_sorted s) (sortedLengths_nodup s)
    (fun p hp => ⟨Nat.zero_le _, sortedLengths_le hshort hp⟩)
    (mem_sortedLengths.mpr ⟨hlt, hused, rfl⟩ : (s.lenAt a, a) ∈ _)
  rw [kraftSum_sortedLengths_before, Nat.zero_mul, Nat.zero_add] at hvalue
  have hword : valueFor codes a < 2 ^ 32 := hfits.trans_le (Nat.pow_le_pow_right (by decide) (hshort a hlt))
  rw [hcode a hlt, BitVec.toNat_ofNat, Nat.mod_eq_of_lt hword]
  exact ⟨hfits, hvalue⟩

theorem mem_codedBefore : a ∈ s.codedBefore b ↔
    s.coded a ∧ strictlyBefore (s.lenAt a, a) (s.lenAt b, b) := by
  simp [State.codedBefore, State.coded, strictlyBefore, and_assoc]

/-- A symbol comes before another together with all the symbols before it, so the later Kraft sum has its share. -/
theorem kraft_codedBefore_add_le (ha : s.coded a) (hbefore : strictlyBefore (s.lenAt a, a) (s.lenAt b, b)) :
    s.kraft 32 (s.codedBefore a) + 2 ^ (32 - s.lenAt a) ≤ s.kraft 32 (s.codedBefore b) := by
  have hnodup : ((s.codedBefore a) ++ [a]).Nodup := by
    refine List.nodup_append.mpr ⟨List.nodup_range.filter _, List.nodup_singleton a, fun i hi j hj => ?_⟩
    rintro rfl
    have hself := (mem_codedBefore.mp hi).2
    rw [List.mem_singleton.mp hj] at hself
    exact not_strictlyBefore_of_strictlyBefore hself hself
  have hsub : s.codedBefore a ++ [a] ⊆ s.codedBefore b := fun i hi => by
    obtain hi | hi := List.mem_append.mp hi
    · obtain ⟨hcoded, hlt⟩ := mem_codedBefore.mp hi
      refine mem_codedBefore.mpr ⟨hcoded, ?_⟩
      unfold strictlyBefore at *
      omega
    · rw [List.mem_singleton.mp hi]
      exact mem_codedBefore.mpr ⟨ha, hbefore⟩
  obtain ⟨syms, hperm, hsublist⟩ := List.subperm_of_subset hnodup hsub
  calc s.kraft 32 (s.codedBefore a) + 2 ^ (32 - s.lenAt a)
      = s.kraft 32 (s.codedBefore a ++ [a]) := by simp [State.kraft, ha.2]
    _ = s.kraft 32 syms := (hperm.map _).sum_eq.symm
    _ ≤ s.kraft 32 (s.codedBefore b) := (hsublist.map _).sum_le_sum fun _ _ => Nat.zero_le _

/-- The code of a symbol that comes before another is no beginning of the other's: the later code lies beyond all that
begin with the earlier one. -/
theorem not_codeBits_prefix_of_before (hs : Inv s) (hvalid : s.codesValid = true) (ha : s.coded a) (hb : s.coded b)
    (hbefore : strictlyBefore (s.lenAt a, a) (s.lenAt b, b)) : ¬ s.codeBits a <+: s.codeBits b := by
  intro hprefix
  obtain ⟨hafits, havalue⟩ := codeAt_toNat hs hvalid ha
  obtain ⟨hbfits, hbvalue⟩ := codeAt_toNat hs hvalid hb
  have hupper := toNat_eq_shiftRight_of_lowBits_prefix hafits hbfits hprefix
  rw [Nat.shiftRight_eq_div_pow] at hupper
  have hbelow := Nat.lt_mul_div_succ (s.codeAt b).toNat (Nat.two_pow_pos (s.lenAt b - s.lenAt a))
  have hshort := (hs.codes hvalid).1 b hb.1
  have hscale : 2 ^ (s.lenAt b - s.lenAt a) * 2 ^ (32 - s.lenAt b) = 2 ^ (32 - s.lenAt a) := by
    have hle := strictlyBefore_length_le hbefore
    rw [← Nat.pow_add]
    congr 1
    omega
  have hlt := Nat.mul_lt_mul_of_pos_right hbelow (Nat.two_pow_pos (32 - s.lenAt b))
  rw [← hupper, hbvalue, Nat.mul_right_comm, hscale, Nat.mul_comm, Nat.succ_mul, havalue] at hlt
  exact Nat.not_le_of_lt hlt (kraft_codedBefore_add_le ha hbefore)

end

/-! ## The statement -/

/-- Settles O29: of two symbols one comes before the other, and where the later one's code begins the earlier one's,
the lengths and so the codes are the same. -/
theorem codesArePrefixFree : Obligations.CodesArePrefixFree := by
  intro s a b hs hvalid ha hb hne hprefix
  have hle := hprefix.length_le
  rw [codeBits_length, codeBits_length] at hle
  by_cases hbefore : strictlyBefore (s.lenAt a, a) (s.lenAt b, b)
  · exact not_codeBits_prefix_of_before hs hvalid ha hb hbefore hprefix
  · have hafter : strictlyBefore (s.lenAt b, b) (s.lenAt a, a) ∧ s.lenAt a = s.lenAt b := by
      unfold strictlyBefore at *
      omega
    have hsame := hprefix.eq_of_length (by rw [codeBits_length, codeBits_length, hafter.2])
    exact not_codeBits_prefix_of_before hs hvalid hb ha hafter.1 (hsame ▸ List.prefix_refl _)

end Sys2Proof.Machine
end

section
/-! SUPPORT. The decode tree (42_huffman_tree.md R140, R141): what a new child and a mark change of the paths, the walk
that puts in one code, and the tree of all codes; the statement BldtreeBuildsExactlyTheCodes. -/

namespace Sys2Proof.Machine

/-! ## Paths -/

@[simp] theorem nodeAt_nil (tree : List Node) (cur : Nat) : nodeAt tree cur [] = some cur := rfl

theorem nodeAt_append (tree : List Node) (cur : Nat) (p q : List Bool) :
    nodeAt tree cur (p ++ q) = (nodeAt tree cur p).bind fun k => nodeAt tree k q := by
  induction p generalizing cur with
  | nil => rfl
  | cons b p ih => simp only [List.cons_append, nodeAt, ih, Option.bind_assoc]

theorem nodeAt_concat (tree : List Node) (cur : Nat) (p : List Bool) (b : Bool) :
    nodeAt tree cur (p ++ [b]) = (nodeAt tree cur p).bind fun k => childOf tree k b := by
  simp [nodeAt_append, nodeAt]

/-- A beginning of a path of the tree is a path of the tree. -/
theorem nodeAt_isSome_of_prefix {tree : List Node} {cur : Nat} {p q : List Bool} (h : p <+: q)
    (hq : (nodeAt tree cur q).isSome) : (nodeAt tree cur p).isSome := by
  obtain ⟨rest, rfl⟩ := h
  rw [nodeAt_append] at hq
  exact Option.isSome_of_isSome_bind hq

/-- Only the children matter to a path. -/
theorem nodeAt_congr {tree tree' : List Node} (h : childOf tree' = childOf tree) : nodeAt tree' = nodeAt tree := by
  funext cur p
  induction p generalizing cur with
  | nil => rfl
  | cons b p ih => simp only [nodeAt, h, ih]

/-- Every path from the root ends inside the arena, and different paths end at different nodes. -/
structure PathsDistinct (tree : List Node) : Prop where
  inside : ∀ {p k}, nodeAt tree 0 p = some k → k < tree.length
  unique : ∀ {p q k}, nodeAt tree 0 p = some k → nodeAt tree 0 q = some k → p = q

/-! ## A new child and a mark (42_huffman_tree.md R140) -/

/-- What a fresh node lacks is lacking at the end of the arena with and without it. -/
theorem bind_append_fresh {α : Type} {f : Node → Option α} (hf : f Node.fresh = none) (tree : List Node) (k : Nat) :
    (tree ++ [Node.fresh])[k]?.bind f = tree[k]?.bind f := by
  obtain hlt | rfl | hgt := Nat.lt_trichotomy k tree.length
  · rw [List.getElem?_append_left hlt]
  · rw [List.getElem?_concat_length, Option.bind_some, hf, List.getElem?_eq_none (Nat.le_refl _), Option.bind_none]
  · rw [List.getElem?_eq_none (by rw [List.length_append, List.length_singleton]; omega),
      List.getElem?_eq_none (by omega)]

theorem childOf_append_fresh (tree : List Node) : childOf (tree ++ [Node.fresh]) = childOf tree :=
  funext₂ fun k b => bind_append_fresh (by cases b <;> rfl) tree k

theorem symOf_append_fresh (tree : List Node) : symOf (tree ++ [Node.fresh]) = symOf tree :=
  funext fun k => bind_append_fresh rfl tree k

theorem childOf_setChild {tree : List Node} {cur : Nat} (hcur : cur < tree.length) (b : Bool) (new k : Nat)
    (c : Bool) :
    childOf (setChild tree cur b new) k c = if k = cur ∧ c = b then some new else childOf tree k c := by
  unfold childOf setChild
  rw [List.getElem?_modify]
  by_cases hk : cur = k
  · subst hk
    rw [List.getElem?_eq_getElem hcur]
    cases b <;> cases c <;> simp
  · simp [hk, Ne.symm hk]

theorem symOf_setChild (tree : List Node) (cur : Nat) (b : Bool) (new : Nat) :
    symOf (setChild tree cur b new) = symOf tree := by
  funext k
  unfold symOf setChild
  rw [List.getElem?_modify]
  cases tree[k]? with
  | none => rfl
  | some node => by_cases hk : cur = k <;> cases b <;> simp [hk]

theorem childOf_setSym (tree : List Node) (cur : Nat) (sym : Fin 256) :
    childOf (setSym tree cur sym) = childOf tree := by
  funext k c
  unfold childOf setSym
  rw [List.getElem?_modify]
  cases tree[k]? with
  | none => rfl
  | some node => by_cases hk : cur = k <;> simp [hk]

theorem symOf_setSym {tree : List Node} {cur : Nat} (hcur : cur < tree.length) (sym : Fin 256) (k : Nat) :
    symOf (setSym tree cur sym) k = if k = cur then some sym else symOf tree k := by
  unfold symOf setSym
  rw [List.getElem?_modify]
  by_cases hk : cur = k
  · subst hk
    simp [hcur]
  · simp [hk, Ne.symm hk]

theorem setSym_length (tree : List Node) (cur : Nat) (sym : Fin 256) : (setSym tree cur sym).length = tree.length :=
  List.length_modify ..

/-- The arena after one turn of R140's walk that finds no child: a fresh node is the child of `cur` for bit `b`. -/
abbrev addChild (tree : List Node) (cur : Nat) (b : Bool) : List Node :=
  setChild (tree ++ [Node.fresh]) cur b tree.length

section
variable {tree : List Node} {cur : Nat} {q : List Bool} {b : Bool}

theorem addChild_length : (addChild tree cur b).length = tree.length + 1 := by
  simp [addChild, setChild]

/-- A new child adds the one path to it. -/
theorem nodeAt_addChild (htree : PathsDistinct tree) (hq : nodeAt tree 0 q = some cur)
    (hnone : childOf tree cur b = none) (p : List Bool) :
    nodeAt (addChild tree cur b) 0 p = if p = q ++ [b] then some tree.length else nodeAt tree 0 p := by
  have hcur := htree.inside hq
  have hchild : ∀ k c, childOf (addChild tree cur b) k c =
      if k = cur ∧ c = b then some tree.length else childOf tree k c := fun k c => by
    rw [childOf_setChild (by rw [List.length_append]; omega), childOf_append_fresh]
  have hnew : nodeAt tree 0 (q ++ [b]) = none := by rw [nodeAt_concat, hq, Option.bind_some, hnone]
  induction p using List.reverseRecOn with
  | nil => rw [if_neg (by simp)]; rfl
  | append_singleton p c ih =>
    rw [nodeAt_concat, ih, nodeAt_concat]
    by_cases hp : p = q ++ [b]
    · subst hp
      have houtside : tree[tree.length]? = none := List.getElem?_eq_none (Nat.le_refl _)
      rw [if_pos rfl, Option.bind_some, hchild, if_neg (by omega), hnew, if_neg (by simp), childOf, houtside]
      rfl
    · rw [if_neg hp]
      cases hnode : nodeAt tree 0 p with
      | none =>
        have hne : p ≠ q := by rintro rfl; exact nomatch hnode.symm.trans hq
        simp [hne]
      | some k =>
        have hsame : k = cur ↔ p = q :=
          ⟨fun h => htree.unique hnode (h ▸ hq), fun h => Option.some.inj (hnode.symm.trans (h ▸ hq))⟩
        simp [hchild, hsame]

theorem addChild_pathsDistinct (htree : PathsDistinct tree) (hq : nodeAt tree 0 q = some cur)
    (hnone : childOf tree cur b = none) : PathsDistinct (addChild tree cur b) := by
  have hlt : ∀ {p k}, nodeAt tree 0 p = some k → k < tree.length := htree.inside
  constructor
  · intro p k hp
    rw [nodeAt_addChild htree hq hnone] at hp
    rw [addChild_length]
    split at hp
    · cases hp; exact Nat.lt_succ_self _
    · exact Nat.lt_succ_of_lt (hlt hp)
  · intro p p' k hp hp'
    rw [nodeAt_addChild htree hq hnone] at hp hp'
    split at hp <;> split at hp'
    · simp_all
    · cases hp; exact absurd (hlt hp') (Nat.lt_irrefl _)
    · cases hp'; exact absurd (hlt hp) (Nat.lt_irrefl _)
    · exact htree.unique hp hp'

theorem leafAt_addChild (htree : PathsDistinct tree) (hq : nodeAt tree 0 q = some cur)
    (hnone : childOf tree cur b = none) (p : List Bool) : leafAt (addChild tree cur b) p = leafAt tree p := by
  rw [leafAt, leafAt, nodeAt_addChild htree hq hnone, addChild, symOf_setChild, symOf_append_fresh]
  split
  · rename_i hp
    rw [hp, nodeAt_concat, hq, Option.bind_some, Option.bind_some, hnone, symOf, List.getElem?_eq_none (Nat.le_refl _)]
    rfl
  · rfl

/-- A mark changes no path. -/
theorem nodeAt_setSym (tree : List Node) (cur : Nat) (sym : Fin 256) : nodeAt (setSym tree cur sym) = nodeAt tree :=
  nodeAt_congr (childOf_setSym tree cur sym)

theorem setSym_pathsDistinct (htree : PathsDistinct tree) (cur : Nat) (sym : Fin 256) :
    PathsDistinct (setSym tree cur sym) := by
  constructor
  · intro p k hp
    rw [setSym_length]
    exact htree.inside (nodeAt_setSym tree cur sym ▸ hp)
  · intro p p' k hp hp'
    rw [nodeAt_setSym] at hp hp'
    exact htree.unique hp hp'

/-- A mark makes the one path to its node lead to a leaf. -/
theorem leafAt_setSym (htree : PathsDistinct tree) (hq : nodeAt tree 0 q = some cur) (sym : Fin 256)
    (p : List Bool) : leafAt (setSym tree cur sym) p = if p = q then some sym else leafAt tree p := by
  rw [leafAt, leafAt, nodeAt_setSym]
  cases hp : nodeAt tree 0 p with
  | none =>
    have hne : p ≠ q := by rintro rfl; exact nomatch hp.symm.trans hq
    rw [if_neg hne]
    rfl
  | some k =>
    have hsame : k = cur ↔ p = q :=
      ⟨fun h => htree.unique hp (h ▸ hq), fun h => Option.some.inj (hp.symm.trans (h ▸ hq))⟩
    simp only [Option.bind_some, symOf_setSym (htree.inside hq), hsame]

/-! ## The walk along one code (42_huffman_tree.md R140) -/

/-- `tree'` is `tree` with the nodes along `path` put in. -/
structure PutsIn (tree tree' : List Node) (path : List Bool) : Prop where
  distinct : PathsDistinct tree'
  leaves   : ∀ p, leafAt tree' p = leafAt tree p
  paths    : ∀ p, (nodeAt tree' 0 p).isSome ↔ (nodeAt tree 0 p).isSome ∨ p <+: path

/-- The walk from the node at `q` puts in the path that goes on with the bits of the code, and ends at its node. -/
theorem insertPath_putsIn (code : Word) (i : Nat) (htree : PathsDistinct tree) (hq : nodeAt tree 0 q = some cur) :
    PutsIn tree (insertPath code i tree cur).1 (q ++ lowBits code i) ∧
    nodeAt (insertPath code i tree cur).1 0 (q ++ lowBits code i) = some (insertPath code i tree cur).2 := by
  induction i generalizing tree cur q with
  | zero =>
    rw [lowBits_zero, List.append_nil]
    refine ⟨⟨htree, fun _ => rfl, fun p => ⟨.inl, ?_⟩⟩, hq⟩
    rintro (hp | hp)
    · exact hp
    · exact nodeAt_isSome_of_prefix hp (hq ▸ rfl)
  | succ i ih =>
    rw [lowBits_succ, List.append_cons]
    unfold insertPath
    split
    · rename_i k hk
      exact ih htree (by rw [nodeAt_concat, hq, Option.bind_some, hk])
    · rename_i hnone
      obtain ⟨⟨hdistinct, hleaves, hpaths⟩, hend⟩ := ih (addChild_pathsDistinct htree hq hnone)
        (q := q ++ [code.getLsbD i]) (by rw [nodeAt_addChild htree hq hnone, if_pos rfl])
      refine ⟨⟨hdistinct, fun p => (hleaves p).trans (leafAt_addChild htree hq hnone p), fun p => ?_⟩, hend⟩
      rw [hpaths, nodeAt_addChild htree hq hnone]
      split
      · rename_i hp
        simp [hp]
      · rfl

/-- A symbol with a length puts in its code, with its mark at the end. -/
theorem insertSymbol_of_used {s : State} {n : Nat} (htree : PathsDistinct tree) (hused : s.lenAt n ≠ 0) :
    PathsDistinct (insertSymbol s.len s.code tree n) ∧
    (∀ p, leafAt (insertSymbol s.len s.code tree n) p =
      if p = s.codeBits n then some (Fin.ofNat 256 n) else leafAt tree p) ∧
    ∀ p, (nodeAt (insertSymbol s.len s.code tree n) 0 p).isSome ↔
      (nodeAt tree 0 p).isSome ∨ p <+: s.codeBits n := by
  have hread : ¬ s.len.read n = 0 := (read_ne_zero_iff_lenAt s n).mpr hused
  rw [insertSymbol, if_neg hread]
  obtain ⟨⟨hdistinct, hleaves, hpaths⟩, hend⟩ := insertPath_putsIn (s.codeAt n) (s.lenAt n) htree (nodeAt_nil tree 0)
  refine ⟨setSym_pathsDistinct hdistinct _ _, fun p => ?_, fun p => ?_⟩
  · rw [← hleaves]
    exact leafAt_setSym hdistinct hend _ p
  · rw [nodeAt_setSym]
    exact hpaths p

end

/-! ## The tree of the codes (42_huffman_tree.md R140, R141) -/

/-- `tree` has the codes of the used symbols below `n`, with their marks, and nothing else. -/
structure HoldsCodes (s : State) (n : Nat) (tree : List Node) : Prop where
  distinct : PathsDistinct tree
  leaves   : ∀ p sym, leafAt tree p = some sym ↔ (sym.val < n ∧ s.lenAt sym.val ≠ 0) ∧ p = s.codeBits sym.val
  paths    : ∀ p, (nodeAt tree 0 p).isSome ↔ p = [] ∨ ∃ i, (i < n ∧ s.lenAt i ≠ 0) ∧ p <+: s.codeBits i

/-- The root alone holds no codes. -/
theorem holdsCodes_root (s : State) : HoldsCodes s 0 [Node.fresh] := by
  have hnode : ∀ p, nodeAt [Node.fresh] 0 p = if p = [] then some 0 else none := by
    rintro (_ | ⟨b, p⟩)
    · rfl
    · cases b <;> rfl
  have hsym : symOf [Node.fresh] 0 = none := rfl
  refine ⟨⟨fun {p k} hp => ?_, fun {p q k} hp hq => ?_⟩, fun p sym => ?_, fun p => ?_⟩
  · rw [hnode] at hp
    split at hp <;> cases hp
    exact Nat.zero_lt_one
  · rw [hnode] at hp hq
    split at hp <;> split at hq <;> simp_all
  · rw [leafAt, hnode]
    split <;> simp [hsym]
  · rw [hnode]
    split <;> simp_all

/-- The tree of the symbols below `n` is put together symbol by symbol. -/
theorem buildDecodingTree_succ (len : Table 8) (code : Table 32) (n : Nat) :
    buildDecodingTree len code (n + 1) = insertSymbol len code (buildDecodingTree len code n) n := by
  simp [buildDecodingTree, List.range_succ]

section
variable {s : State}

/-- Different used symbols have different codes. -/
theorem codeBits_injective (hs : Inv s) (hvalid : s.codesValid = true) {a b : Nat} (ha : s.coded a) (hb : s.coded b)
    (h : s.codeBits a = s.codeBits b) : a = b := by
  by_contra hne
  exact codesArePrefixFree s a b hs hvalid ha hb hne (h ▸ List.prefix_refl _)

theorem HoldsCodes.insertSymbol {n : Nat} {tree : List Node} (hs : Inv s) (hvalid : s.codesValid = true)
    (hn : n < s.size) (h : HoldsCodes s n tree) : HoldsCodes s (n + 1) (insertSymbol s.len s.code tree n) := by
  have hsize := hs.size_legal.2
  by_cases hused : s.lenAt n = 0
  · have hread : s.len.read n = 0 := by
      by_contra hne
      exact (read_ne_zero_iff_lenAt s n).mp hne hused
    have hsame : ∀ i, (i < n + 1 ∧ s.lenAt i ≠ 0) ↔ (i < n ∧ s.lenAt i ≠ 0) := fun i => by
      refine and_congr_left fun hi => ?_
      have hne : i ≠ n := fun heq => hi (heq ▸ hused)
      omega
    rw [Machine.insertSymbol, if_pos hread]
    exact ⟨h.distinct, fun p sym => by rw [h.leaves, hsame], fun p => by simp only [h.paths, hsame]⟩
  · obtain ⟨hdistinct, hleaves, hpaths⟩ := insertSymbol_of_used h.distinct hused
    refine ⟨hdistinct, fun p sym => ?_, fun p => ?_⟩
    · rw [hleaves]
      by_cases hp : p = s.codeBits n
      · have hmark : Fin.ofNat 256 n = sym ↔ n = sym.val := by
          rw [Fin.ext_iff, Fin.val_ofNat, Nat.mod_eq_of_lt (by omega)]
        rw [if_pos hp, Option.some_inj, hmark]
        refine ⟨fun heq => heq ▸ ⟨⟨Nat.lt_succ_self n, hused⟩, hp⟩, fun ⟨⟨hlt, hne⟩, hp'⟩ => ?_⟩
        exact codeBits_injective hs hvalid ⟨hn, hused⟩ ⟨by omega, hne⟩ (hp.symm.trans hp')
      · rw [if_neg hp, h.leaves]
        refine ⟨fun ⟨⟨hlt, hne⟩, hp'⟩ => ⟨⟨Nat.lt_succ_of_lt hlt, hne⟩, hp'⟩, fun ⟨⟨hlt, hne⟩, hp'⟩ => ?_⟩
        have hother : sym.val ≠ n := fun heq => hp (heq ▸ hp')
        exact ⟨⟨by omega, hne⟩, hp'⟩
    · rw [hpaths, h.paths, or_assoc]
      refine or_congr_right ⟨?_, fun ⟨i, ⟨hlt, hne⟩, hp⟩ => ?_⟩
      · rintro (⟨i, ⟨hlt, hne⟩, hp⟩ | hp)
        · exact ⟨i, ⟨Nat.lt_succ_of_lt hlt, hne⟩, hp⟩
        · exact ⟨n, ⟨Nat.lt_succ_self n, hused⟩, hp⟩
      · obtain hlt | rfl := Nat.lt_succ_iff_lt_or_eq.mp hlt
        · exact .inl ⟨i, ⟨hlt, hne⟩, hp⟩
        · exact .inr hp

/-- BLDTREE's tree holds exactly the codes (R141). -/
theorem buildDecodingTree_holdsCodes (hs : Inv s) (hvalid : s.codesValid = true) {n : Nat} (hn : n ≤ s.size) :
    HoldsCodes s n (buildDecodingTree s.len s.code n) := by
  induction n with
  | zero => exact holdsCodes_root s
  | succ n ih =>
    rw [buildDecodingTree_succ]
    exact (ih (Nat.le_of_succ_le hn)).insertSymbol hs hvalid hn

end

/-! ## The statement -/

theorem bldtree_of_valid {s : State} (h : s.codesValid = true) :
    bldtree s = .done { s with tree := buildDecodingTree s.len s.code s.size }.treeBuilt := if_pos h

/-- Settles O28: the tree holds exactly the codes. -/
theorem bldtreeBuildsExactlyTheCodes : Obligations.BldtreeBuildsExactlyTheCodes := by
  intro s hs hvalid
  refine ⟨_, by rw [exec_bldtree, bldtree_of_valid hvalid], rfl, ?_⟩
  exact (buildDecodingTree_holdsCodes hs hvalid (Nat.le_refl _)).leaves

end Sys2Proof.Machine
end

section
/-! SUPPORT. DECSYM's walk as a path of the tree (42_huffman_tree.md R143): a bit read is a step down the tree, and the
bits read so far are inside a code; the statements NotReadyFailures, DecsymReturnsTheSymbol, DecsymAtTheEndOfInput and
DecsymOnAnInvalidCode. -/

namespace Sys2Proof.Machine

/-! ## The bit reader (43_bitstream.md R162) -/

theorem streamBits_length (bytes : List Byte) : (streamBits bytes).length = 8 * bytes.length := by
  induction bytes with
  | nil => rfl
  | cons b bytes ih =>
    rw [streamBits_cons, List.length_append, lowBits_length, ih, List.length_cons]
    omega

theorem availableBits_eq_length (s : State) : s.availableBits = s.unreadBits.length := by
  rw [State.unreadBits, List.length_append, lowBits_length, streamBits_length, State.availableBits, Nat.add_comm]

theorem unreadBits_eq_nil {s : State} (h : s.unreadBits = []) : s.rn = 0 ∧ s.inq = [] := by
  have hnone : 8 * s.inq.length + s.rn = 0 := (availableBits_eq_length s).trans (by rw [h]; rfl)
  exact ⟨by omega, List.length_eq_zero_iff.mp (by omega)⟩

/-- A reader without a bit left: at the end of the stream when the input is closed, else waiting for the host. -/
theorem readBit_of_unread_nil {s : State} (h : s.unreadBits = []) :
    readBit s = if s.inClosed then .endOfStream else .hold := by
  obtain ⟨hrn, hinq⟩ := unreadBits_eq_nil h
  simp [readBit, hrn, hinq]

/-- A reader with a bit left gives the first one. -/
theorem readBit_of_unread_cons {s : State} {b : Bool} {rest : List Bool} (h : s.unreadBits = b :: rest) :
    ∃ t, readBit s = .bit b t ∧ t.unreadBits = rest ∧ t = { s with rbyte := t.rbyte, rn := t.rn, inq := t.inq } := by
  have hread : ∃ c t, readBit s = .bit c t := by
    obtain ⟨hrn, hinq, -⟩ | ⟨hrn, hinq, -⟩ | ⟨c, bytes, -, -, he⟩ | ⟨-, he⟩ := readBit_cases s
    · simp [State.unreadBits, hrn, hinq] at h
    · simp [State.unreadBits, hrn, hinq] at h
    · exact ⟨_, _, he⟩
    · exact ⟨_, _, he⟩
  obtain ⟨c, t, he⟩ := hread
  obtain ⟨rfl, hrest⟩ := List.cons_eq_cons.mp ((readBit_unread he).symm.trans h)
  exact ⟨t, he, hrest, (readBit_bit he).2⟩

/-! ## One turn of the walk (42_huffman_tree.md R143) -/

section
variable {s t : State} {fuel cur k : Nat} {b : Bool}

theorem decodeWalk_of_hold (h : readBit s = .hold) : decodeWalk (fuel + 1) cur s = .hold := by
  simp [decodeWalk, h]

theorem decodeWalk_of_endOfStream (h : readBit s = .endOfStream) :
    decodeWalk (fuel + 1) cur s = .error .endOfStream s := by
  simp [decodeWalk, h]

theorem decodeWalk_of_missing (h : readBit s = .bit b t) (hchild : childOf t.tree cur b = none) :
    decodeWalk (fuel + 1) cur s = .error .invalidCode t := by
  simp [decodeWalk, h, hchild]

theorem decodeWalk_of_internal (h : readBit s = .bit b t) (hchild : childOf t.tree cur b = some k)
    (hsym : symOf t.tree k = none) : decodeWalk (fuel + 1) cur s = decodeWalk fuel k t := by
  simp [decodeWalk, h, hchild, hsym]

theorem decodeWalk_of_leaf {sym : Fin 256} (h : readBit s = .bit b t) (hchild : childOf t.tree cur b = some k)
    (hsym : symOf t.tree k = some sym) :
    decodeWalk (fuel + 1) cur s = .done { t with result := BitVec.ofNat 32 sym.val } := by
  simp [decodeWalk, h, hchild, hsym]

end

/-- The walk goes down a path of unmarked nodes as far as the unread bits follow it. -/
theorem decodeWalk_along {s : State} {path rest : List Bool} {cur k : Nat} (fuel : Nat)
    (hbits : s.unreadBits = path ++ rest) (hpath : nodeAt s.tree cur path = some k)
    (hinner : ∀ p j, p ≠ [] → p <+: path → nodeAt s.tree cur p = some j → symOf s.tree j = none) :
    ∃ t, t = { s with rbyte := t.rbyte, rn := t.rn, inq := t.inq } ∧ t.unreadBits = rest ∧
      decodeWalk (path.length + fuel) cur s = decodeWalk fuel k t := by
  induction path generalizing s cur with
  | nil =>
    cases hpath
    exact ⟨s, rfl, hbits, by rw [List.length_nil, Nat.zero_add]⟩
  | cons b path ih =>
    obtain ⟨u, hread, hrest, hframe⟩ := readBit_of_unread_cons hbits
    have htree : u.tree = s.tree := by rw [hframe]
    obtain ⟨j, hchild, hdown⟩ := Option.bind_eq_some_iff.mp hpath
    have hunmarked : symOf s.tree j = none := hinner [b] j (by simp) (by simp) (by simp [nodeAt, hchild])
    obtain ⟨t, htframe, htrest, hwalk⟩ := ih hrest (htree ▸ hdown) fun p i _ hp hi => by
      rw [htree] at hi ⊢
      exact hinner (b :: p) i (by simp) (by simpa using hp) (by simp [nodeAt, hchild, hi])
    refine ⟨t, by rw [htframe, hframe], htrest, ?_⟩
    rw [List.length_cons, Nat.add_right_comm, decodeWalk_of_internal hread (htree ▸ hchild) (htree ▸ hunmarked), hwalk]

/-! ## The bits inside a code -/

section
variable {s : State} {path : List Bool}

theorem codeBits_ne_nil {sym : Nat} (h : s.coded sym) : s.codeBits sym ≠ [] := by
  intro hnil
  exact h.2 ((codeBits_length s sym).symm.trans (by rw [hnil]; rfl))

/-- The bits of a code but the last are inside the code. -/
theorem exists_codeBits_eq_concat {sym : Nat} (h : s.coded sym) :
    ∃ init b, s.codeBits sym = init ++ [b] ∧ s.insideCode init := by
  refine ⟨_, _, (List.dropLast_append_getLast (codeBits_ne_nil h)).symm, .inr ⟨sym, h, List.dropLast_prefix _, ?_⟩⟩
  intro heq
  have hlen := congrArg List.length heq
  have hpos := List.length_pos_iff.mpr (codeBits_ne_nil h)
  rw [List.length_dropLast] at hlen
  omega

theorem insideCode_of_prefix {p : List Bool} (h : s.insideCode path) (hp : p <+: path) : s.insideCode p := by
  obtain rfl | ⟨sym, hcoded, hprefix, hne⟩ := h
  · exact .inl (List.prefix_nil.mp hp)
  · refine .inr ⟨sym, hcoded, hp.trans hprefix, ?_⟩
    rintro rfl
    exact hne (hprefix.eq_of_length (Nat.le_antisymm hprefix.length_le hp.length_le))

variable (hs : Inv s) (hvalid : s.treeValid = true)
include hs hvalid

/-- A valid tree holds exactly the codes (R45 (e)). -/
theorem tree_holdsCodes : HoldsCodes s s.size s.tree := by
  obtain ⟨hcodes, htree⟩ := hs.tree_current hvalid
  rw [htree]
  exact buildDecodingTree_holdsCodes hs hcodes (Nat.le_refl _)

/-- The bits inside a code are a path of the tree, and it leads to no mark. -/
theorem nodeAt_of_insideCode (h : s.insideCode path) :
    ∃ k, nodeAt s.tree 0 path = some k ∧ symOf s.tree k = none := by
  have htree := tree_holdsCodes hs hvalid
  have hpath : (nodeAt s.tree 0 path).isSome := (htree.paths path).mpr <| by
    obtain hnil | ⟨sym, hcoded, hprefix, -⟩ := h
    · exact .inl hnil
    · exact .inr ⟨sym, hcoded, hprefix⟩
  obtain ⟨k, hk⟩ := Option.isSome_iff_exists.mp hpath
  refine ⟨k, hk, ?_⟩
  cases hsym : symOf s.tree k with
  | none => rfl
  | some sym =>
    have hleaf : leafAt s.tree path = some sym := by rw [leafAt, hk, Option.bind_some, hsym]
    obtain ⟨hcoded, rfl⟩ := (htree.leaves path sym).mp hleaf
    obtain hnil | ⟨other, hother, hprefix, hne⟩ := h
    · exact absurd hnil (codeBits_ne_nil hcoded)
    · have hdiffer : sym.val ≠ other := fun heq => hne (heq ▸ rfl)
      exact absurd hprefix (codesArePrefixFree s _ _ hs (hs.tree_current hvalid).1 hcoded hother hdiffer)

/-- DECSYM walks down the unread bits as long as they are inside a code. -/
theorem decsym_along {rest : List Bool} (hbits : s.unreadBits = path ++ rest) (h : s.insideCode path) :
    ∃ k t, nodeAt s.tree 0 path = some k ∧ t = { s with rbyte := t.rbyte, rn := t.rn, inq := t.inq } ∧
      t.unreadBits = rest ∧ decsym s = decodeWalk (rest.length + 1) k t := by
  obtain ⟨k, hk, -⟩ := nodeAt_of_insideCode hs hvalid h
  obtain ⟨t, hframe, hrest, hwalk⟩ := decodeWalk_along (rest.length + 1) hbits hk fun p j _ hp hj => by
    obtain ⟨i, hi, hunmarked⟩ := nodeAt_of_insideCode hs hvalid (insideCode_of_prefix h hp)
    exact Option.some.inj (hi.symm.trans hj) ▸ hunmarked
  refine ⟨k, t, hk, hframe, hrest, ?_⟩
  rw [decsym, if_pos hvalid, availableBits_eq_length, hbits, List.length_append, Nat.add_assoc, hwalk]

/-! ## How DECSYM ends (42_huffman_tree.md R143) -/

/-- Unread bits that begin with a code: DECSYM returns its symbol. -/
theorem decsym_of_code {sym : Nat} {rest : List Bool} (hcoded : s.coded sym)
    (hbits : s.unreadBits = s.codeBits sym ++ rest) :
    ∃ t, decsym s = .done t ∧ t.result = BitVec.ofNat 32 sym ∧ t.unreadBits = rest ∧
      t = { s with result := t.result, rbyte := t.rbyte, rn := t.rn, inq := t.inq } := by
  obtain ⟨init, b, hcode, hinside⟩ := exists_codeBits_eq_concat hcoded
  rw [hcode, List.append_assoc] at hbits
  obtain ⟨k, t, hk, hframe, hrest, hdecsym⟩ := decsym_along hs hvalid hbits hinside
  obtain ⟨u, hread, hurest, huframe⟩ := readBit_of_unread_cons hrest
  have htree : u.tree = s.tree := by rw [huframe, hframe]
  have hsize : sym < 256 := hcoded.1.trans_le hs.size_legal.2
  have hleaf := ((tree_holdsCodes hs hvalid).leaves (init ++ [b]) ⟨sym, hsize⟩).mpr ⟨hcoded, hcode.symm⟩
  rw [leafAt, nodeAt_concat, hk, Option.bind_some] at hleaf
  obtain ⟨j, hchild, hsym⟩ := Option.bind_eq_some_iff.mp hleaf
  refine ⟨_, hdecsym.trans (decodeWalk_of_leaf hread (htree ▸ hchild) (htree ▸ hsym)), rfl, hurest, ?_⟩
  rw [huframe, hframe]

/-- Unread bits that stop inside a code: the end of the stream, or a hold. -/
theorem decsym_of_insideCode (h : s.insideCode s.unreadBits) :
    (s.inClosed = true → ∃ t, decsym s = .error .endOfStream t ∧ t.inq = [] ∧ t.rn = 0 ∧
      t = { s with rbyte := t.rbyte, rn := t.rn, inq := t.inq }) ∧
    (s.inClosed = false → decsym s = .hold) := by
  obtain ⟨k, t, -, hframe, hrest, hdecsym⟩ := decsym_along hs hvalid (List.append_nil _).symm h
  have hread := readBit_of_unread_nil hrest
  have hclosed : t.inClosed = s.inClosed := by rw [hframe]
  rw [hclosed] at hread
  obtain ⟨hrn, hinq⟩ := unreadBits_eq_nil hrest
  refine ⟨fun hc => ⟨t, ?_, hinq, hrn, hframe⟩, fun hc => ?_⟩
  · exact hdecsym.trans (decodeWalk_of_endOfStream (hread.trans (if_pos hc)))
  · exact hdecsym.trans (decodeWalk_of_hold (hread.trans (if_neg (by simp [hc]))))

/-- Unread bits that leave every code at bit `b`: an invalid code. -/
theorem decsym_of_leaving {rest : List Bool} {b : Bool} (hbits : s.unreadBits = path ++ b :: rest)
    (h : s.insideCode path) (hleave : ∀ sym, s.coded sym → ¬ path ++ [b] <+: s.codeBits sym) :
    ∃ t, decsym s = .error .invalidCode t ∧ t.unreadBits = rest ∧
      t = { s with rbyte := t.rbyte, rn := t.rn, inq := t.inq } := by
  obtain ⟨k, t, hk, hframe, hrest, hdecsym⟩ := decsym_along hs hvalid hbits h
  obtain ⟨u, hread, hurest, huframe⟩ := readBit_of_unread_cons hrest
  have htree : u.tree = s.tree := by rw [huframe, hframe]
  have hchild : childOf s.tree k b = none := by
    by_contra hne
    have hpath : (nodeAt s.tree 0 (path ++ [b])).isSome := by
      rw [nodeAt_concat, hk, Option.bind_some]
      exact Option.isSome_iff_ne_none.mpr hne
    obtain hnil | ⟨sym, hcoded, hprefix⟩ := ((tree_holdsCodes hs hvalid).paths _).mp hpath
    · exact absurd hnil (by simp)
    · exact hleave sym hcoded hprefix
  refine ⟨u, hdecsym.trans (decodeWalk_of_missing hread (htree ▸ hchild)), hurest, ?_⟩
  rw [huframe, hframe]

end

/-! ## Valid bits that are down (42_huffman_tree.md R140, R142, R143) -/

theorem bldtree_of_invalid {s : State} (h : s.codesValid = false) : bldtree s = .error .notReady s := by
  simp [bldtree, h]

theorem encsym_of_invalid {s : State} {sym : Nat} (hsym : sym < s.size) (h : s.codesValid = false) :
    encsym sym s = .error .notReady s := by
  simp [encsym, State.symInRange, hsym, h]

theorem decsym_of_invalid {s : State} (h : s.treeValid = false) : decsym s = .error .notReady s := by
  simp [decsym, h]

/-! ## The statements -/

/-- Settles O27: the check of the valid bit comes before any effect. -/
theorem notReadyFailures : Obligations.NotReadyFailures := by
  refine fun s => ⟨fun h => ?_, fun h sym hsym => ?_, fun h => ?_⟩
  · rw [exec_bldtree, bldtree_of_invalid h, settle_error_self]; rfl
  · rw [exec_encsym, encsym_of_invalid hsym h, settle_error_self]; rfl
  · rw [exec_decsym, decsym_of_invalid h, settle_error_self]; rfl

/-- Settles O31: the walk goes down the code but its last bit, which leads to the leaf. -/
theorem decsymReturnsTheSymbol : Obligations.DecsymReturnsTheSymbol := by
  intro s sym rest hs hvalid hcoded hbits
  obtain ⟨t, hdone, hresult, hrest, hframe⟩ := decsym_of_code hs hvalid hcoded hbits
  refine ⟨_, exec_decsym s, ?_⟩
  rw [hdone, settle_done]
  exact ⟨hresult, hrest, by rw [hframe]⟩

/-- Settles O32: the walk goes down all unread bits, and the reader has no more. -/
theorem decsymAtTheEndOfInput : Obligations.DecsymAtTheEndOfInput := by
  intro s hs hvalid hinside
  obtain ⟨hclosed, hopen⟩ := decsym_of_insideCode hs hvalid hinside
  refine ⟨fun hc => ?_, fun hc => by rw [exec_decsym, hopen hc, settle_hold]⟩
  obtain ⟨t, herror, hinq, hrn, hframe⟩ := hclosed hc
  refine ⟨_, exec_decsym s, ?_⟩
  rw [herror, settle_error]
  exact ⟨hinq, hrn, by rw [hframe]; rfl⟩

/-- Settles O33: the walk goes down the path, and the node there has no child for `b`. -/
theorem decsymOnAnInvalidCode : Obligations.DecsymOnAnInvalidCode := by
  intro s path rest b hs hvalid hbits hinside hleave
  obtain ⟨t, herror, hrest, hframe⟩ := decsym_of_leaving hs hvalid hbits hinside hleave
  refine ⟨_, exec_decsym s, ?_⟩
  rw [herror, settle_error]
  exact ⟨hrest, by rw [hframe]; rfl⟩

end Sys2Proof.Machine
end

section
/-! SUPPORT. The bit writer as a stream (43_bitstream.md R160, R161): what a bit, a code and the closing byte append to
the bits written, and when there is room; the statement EncsymRule. -/

namespace Sys2Proof.Machine

/-! ## One bit (43_bitstream.md R160) -/

theorem accumulate_getLsbD_zero (acc : Byte) (b : Bool) : (accumulate acc b).getLsbD 0 = b := by
  rw [accumulate, BitVec.getLsbD_ofNat, Nat.testBit_zero, Nat.mul_add_mod]
  cases b <;> rfl

theorem accumulate_getLsbD_succ (acc : Byte) (b : Bool) {i : Nat} (h : i + 1 < 8) :
    (accumulate acc b).getLsbD (i + 1) = acc.getLsbD i := by
  have hhalf : (2 * acc.toNat + b.toNat) / 2 = acc.toNat := by
    have hbit := Bool.toNat_lt b
    omega
  rw [accumulate, BitVec.getLsbD_ofNat, decide_eq_true h, Bool.true_and, Nat.testBit_succ, hhalf]
  rfl

/-- An accumulator that takes a bit holds the bits before it and then the bit. -/
theorem lowBits_accumulate (acc : Byte) (b : Bool) {n : Nat} (h : n < 8) :
    lowBits (accumulate acc b) (n + 1) = lowBits acc n ++ [b] := by
  induction n with
  | zero => rw [lowBits_succ, accumulate_getLsbD_zero]; rfl
  | succ n ih => rw [lowBits_succ, ih (by omega), accumulate_getLsbD_succ acc b h, lowBits_succ, List.cons_append]

/-- What a written bit does to the stream, the count and the bytes. -/
theorem writeBit_appends {s t : State} {b : Bool} (hwn : s.wn ≤ 7) (h : writeBit b s = some t) :
    t.writtenBits = s.writtenBits ++ [b] ∧ t.wn = (s.wn + 1) % 8 ∧ s.outq <+: t.outq := by
  obtain ⟨hfull, -, rfl⟩ | ⟨hpart, rfl⟩ := writeBit_cases h
  · simp [State.writtenBits, hfull, lowBits_accumulate]
  · refine ⟨?_, (Nat.mod_eq_of_lt (show s.wn + 1 < 8 by omega)).symm, List.prefix_refl _⟩
    simp only [State.writtenBits, lowBits_accumulate s.wacc b (show s.wn < 8 by omega), List.append_assoc]

/-! ## Several bits -/

/-- Bits that are written are appended to the stream in order. -/
theorem writeBits_appends {v : Word} {n : Nat} {s t : State} (hwn : s.wn ≤ 7) (h : writeBits v n s = some t) :
    t.writtenBits = s.writtenBits ++ lowBits v n ∧ t.wn = (s.wn + n) % 8 ∧ s.outq <+: t.outq := by
  induction n generalizing s with
  | zero =>
    cases h
    exact ⟨(List.append_nil _).symm, (Nat.mod_eq_of_lt (by omega)).symm, List.prefix_refl _⟩
  | succ n ih =>
    obtain ⟨u, hbit, hrest⟩ := Option.bind_eq_some_iff.mp h
    obtain ⟨hbits, hcount, hbytes⟩ := writeBit_appends hwn hbit
    obtain ⟨hbits', hcount', hbytes'⟩ := ih (by omega) hrest
    refine ⟨?_, by omega, hbytes.trans hbytes'⟩
    rw [hbits', hbits, lowBits_succ, List.append_assoc, List.singleton_append]

/-- After a bit there is room for the rest exactly when there was room for them all. -/
theorem roomFor_succ_iff {s t : State} {b : Bool} (hdepth : s.outq.length ≤ Config.outDepth)
    (h : writeBit b s = some t) (n : Nat) : t.roomFor n ↔ s.roomFor (n + 1) := by
  unfold State.roomFor
  obtain ⟨hfull, hroom, rfl⟩ | ⟨-, rfl⟩ := writeBit_cases h
  · simp only [List.length_append, List.length_singleton]
    omega
  · simp only
    omega

/-- The bits can be written exactly when there is room for them. -/
theorem writeBits_isSome_iff {s : State} (hs : Inv s) (v : Word) (n : Nat) :
    (writeBits v n s).isSome ↔ s.roomFor n := by
  induction n generalizing s with
  | zero =>
    have hwn := hs.writer.1
    simp only [writeBits_zero, Option.isSome_some, true_iff, State.roomFor]
    omega
  | succ n ih =>
    rw [writeBits_succ]
    cases hbit : writeBit (v.getLsbD n) s with
    | none =>
      obtain ⟨hwn, hfull⟩ := writeBit_eq_none.mp hbit
      simp only [Option.bind_none, Option.isSome_none, Bool.false_eq_true, false_iff, State.roomFor]
      omega
    | some t =>
      rw [Option.bind_some, ih (writeBit_inv _ s t hs hbit),
        roomFor_succ_iff hs.fifos.2 hbit]

/-! ## The closing byte (43_bitstream.md R161) -/

/-- A shift to the left puts the bits before those it brings in. -/
theorem lowBits_shiftLeft {w : Nat} (v : BitVec w) (k : Nat) {n : Nat} (h : n + k ≤ w) :
    lowBits (v <<< k) (n + k) = lowBits v n ++ lowBits (v <<< k) k := by
  induction n with
  | zero => rw [Nat.zero_add, lowBits_zero, List.nil_append]
  | succ n ih =>
    have hbit : (v <<< k).getLsbD (n + k) = v.getLsbD n := by
      rw [BitVec.getLsbD_shiftLeft, decide_eq_true (by omega), decide_eq_false (by omega), Nat.add_sub_cancel]
      rfl
    rw [Nat.add_right_comm, lowBits_succ, ih (by omega), hbit, lowBits_succ, List.cons_append]

/-- The bytes of a closed writer begin with the bits written. -/
theorem writtenBits_prefix_of_closeWriter {s t : State} (hwn : s.wn ≤ 7) (h : closeWriter s = some t) :
    s.writtenBits <+: streamBits t.outq := by
  obtain ⟨hzero, hc⟩ | ⟨-, -, hc⟩ | ⟨-, -, hc⟩ := closeWriter_cases s
  all_goals
    rw [hc] at h
    cases h
  · rw [State.writtenBits, hzero, lowBits_zero, List.append_nil]
  · have hpad := lowBits_shiftLeft s.wacc (8 - s.wn) (show s.wn + (8 - s.wn) ≤ 8 by omega)
    rw [show s.wn + (8 - s.wn) = 8 by omega] at hpad
    rw [State.writtenBits, streamBits_append, streamBits_cons, hpad, streamBits_nil, List.append_nil,
      ← List.append_assoc]
    exact List.prefix_append _ _

/-! ## ENCSYM (42_huffman_tree.md R142) -/

section
variable {s : State} {sym : Nat}

theorem encsym_of_size_le (h : s.size ≤ sym) : encsym sym s = .error .symRange s := by
  simp [encsym, State.symInRange, Nat.not_lt.mpr h]

theorem encsym_of_unused (hsym : sym < s.size) (hvalid : s.codesValid = true) (hunused : s.lenAt sym = 0) :
    encsym sym s = .error .unusedSym s := by
  simp [encsym, State.symInRange, hsym, hvalid, hunused]

theorem encsym_of_coded (hvalid : s.codesValid = true) (hcoded : s.coded sym) :
    encsym sym s = doneOrHold (writeBits (s.codeAt sym) (s.lenAt sym) s) := by
  simp [encsym, State.symInRange, hvalid, hcoded.1, hcoded.2]

/-- With room for it, the code is appended to the bits written. -/
theorem encsym_of_room (hs : Inv s) (hvalid : s.codesValid = true) (hcoded : s.coded sym)
    (hroom : s.roomFor (s.lenAt sym)) : ∃ t, encsym sym s = .done t ∧
      t.writtenBits = s.writtenBits ++ s.codeBits sym ∧ s.outq <+: t.outq ∧ t.wn = (s.wn + s.lenAt sym) % 8 ∧
      t = { s with wacc := t.wacc, wn := t.wn, outq := t.outq } := by
  obtain ⟨t, ht⟩ := Option.isSome_iff_exists.mp ((writeBits_isSome_iff hs (s.codeAt sym) _).mpr hroom)
  obtain ⟨hbits, hcount, hbytes⟩ := writeBits_appends hs.writer.1 ht
  exact ⟨t, by rw [encsym_of_coded hvalid hcoded, ht, doneOrHold_some], hbits, hbytes, hcount, writeBits_frame ht⟩

theorem encsym_of_no_room (hs : Inv s) (hvalid : s.codesValid = true) (hcoded : s.coded sym)
    (hroom : ¬ s.roomFor (s.lenAt sym)) : encsym sym s = .hold := by
  rw [← writeBits_isSome_iff hs (s.codeAt sym), Option.not_isSome_iff_eq_none] at hroom
  rw [encsym_of_coded hvalid hcoded, hroom, doneOrHold_none]

end

/-- An opcode and an operand that a rule joins with `|` make up the word of the two fields (30_encoding.md R90). -/
theorem or_shiftLeft_eq_commandWord {op a : Nat} (hop : op < 256) (ha : a < 256) :
    (BitVec.ofNat 32 op ||| BitVec.ofNat 32 a <<< 8 : Word) = commandWord op a := by
  have hopword : op % 2 ^ 32 = op := Nat.mod_eq_of_lt (by omega)
  have haword : a % 2 ^ 32 = a := Nat.mod_eq_of_lt (by omega)
  have hshift : a <<< 8 % 2 ^ 32 = a <<< 8 := Nat.mod_eq_of_lt (by rw [Nat.shiftLeft_eq]; omega)
  apply BitVec.eq_of_toNat_eq
  rw [commandWord_toNat hop ha, BitVec.toNat_or, BitVec.toNat_shiftLeft, BitVec.toNat_ofNat, BitVec.toNat_ofNat,
    hopword, haword, hshift, Nat.or_comm, ← Nat.shiftLeft_add_eq_or_of_lt (i := 8) hop, Nat.shiftLeft_eq]
  omega

/-! ## The statement -/

/-- Settles O30, from the equation of `encsym` in each case of its rule. -/
theorem encsymRule : Obligations.EncsymRule := by
  refine ⟨fun sym hsym => ?_, fun s sym hs => ⟨fun hle => ?_, fun hlt hinvalid => ?_, fun hlt hvalid hunused => ?_,
    fun hvalid hcoded hroom => ?_, fun hvalid hcoded hroom => ?_⟩⟩
  · have hword : (0x00000022 ||| BitVec.ofNat 32 sym <<< 8 : Word) = encode (.encsym sym) :=
      or_shiftLeft_eq_commandWord (by decide) hsym
    rw [hword]
    exact decodeOfEncode _ (decide_eq_true hsym)
  · rw [exec_encsym, encsym_of_size_le hle, settle_error_self]; rfl
  · rw [exec_encsym, encsym_of_invalid hlt hinvalid, settle_error_self]; rfl
  · rw [exec_encsym, encsym_of_unused hlt hvalid hunused, settle_error_self]; rfl
  · obtain ⟨t, hdone, hbits, hbytes, hcount, hframe⟩ := encsym_of_room hs hvalid hcoded hroom
    refine ⟨_, exec_encsym sym s, ?_⟩
    rw [hdone, settle_done]
    exact ⟨hbits, hbytes, hcount, by rw [hframe]⟩
  · rw [exec_encsym, encsym_of_no_room hs hvalid hcoded hroom, settle_hold]

end Sys2Proof.Machine
end

section
/-! SUPPORT. Encoding and decoding a sequence of symbols (42_huffman_tree.md R144): the encoder's bits are the codes in
order, the decoder's turns take the codes off again, and what they have not yet taken off is a beginning of the rest;
the statement HuffmanRoundTrip. -/

namespace Sys2Proof.Machine

/-! ## Equal codes -/

/-- Two states with the same symbols and, for each of them, the same code. -/
structure SameCodes (s t : State) : Prop where
  coded : ∀ sym, t.coded sym ↔ s.coded sym
  bits  : ∀ sym, s.coded sym → t.codeBits sym = s.codeBits sym

theorem SameCodes.refl (s : State) : SameCodes s s := ⟨fun _ => Iff.rfl, fun _ _ => rfl⟩

theorem SameCodes.trans {s t u : State} (hst : SameCodes s t) (htu : SameCodes t u) : SameCodes s u :=
  ⟨fun sym => (htu.coded sym).trans (hst.coded sym),
    fun sym h => (htu.bits sym ((hst.coded sym).mpr h)).trans (hst.bits sym h)⟩

theorem sameCodes_of_tables {s t : State} (hsize : t.size = s.size) (hlen : t.len = s.len) (hcode : t.code = s.code) :
    SameCodes s t := by
  have hlenAt : t.lenAt = s.lenAt := by funext i; rw [State.lenAt, State.lenAt, hlen]
  exact ⟨fun sym => by rw [State.coded, State.coded, hsize, hlenAt],
    fun sym _ => by rw [State.codeBits, State.codeBits, State.codeAt, State.codeAt, hcode, hlenAt]⟩

/-- Valid codes are fixed by SIZE and the lengths (41_huffman_build.md R127). -/
theorem sameCodes_of_lengths {s t : State} (hs : Inv s) (ht : Inv t) (hsvalid : s.codesValid = true)
    (htvalid : t.codesValid = true) (hsize : s.size = t.size) (hlen : ∀ i, i < s.size → s.len.read i = t.len.read i) :
    SameCodes s t := by
  obtain ⟨-, codes, hbuild, hcode⟩ := hs.codes hsvalid
  obtain ⟨-, codes', hbuild', hcode'⟩ := ht.codes htvalid
  rw [← hsize, ← buildCanonicalCodes_congr hlen, hbuild] at hbuild'
  cases hbuild'
  have hlenAt : ∀ i, i < s.size → t.lenAt i = s.lenAt i := fun i hi => by rw [State.lenAt, State.lenAt, hlen i hi]
  refine ⟨fun sym => ?_, fun sym hcoded => ?_⟩
  · rw [State.coded, State.coded, ← hsize]
    exact and_congr_right fun hlt => by rw [hlenAt sym hlt]
  · have hlt := hcoded.1
    rw [State.codeBits, State.codeBits, hlenAt sym hlt, hcode sym hlt, hcode' sym (hsize ▸ hlt)]

/-- The codes of a list of symbols, one after the other. -/
def State.textBits (s : State) (syms : List Nat) : List Bool := syms.flatMap s.codeBits

@[simp] theorem textBits_cons (s : State) (sym : Nat) (syms : List Nat) :
    s.textBits (sym :: syms) = s.codeBits sym ++ s.textBits syms := rfl

@[simp] theorem textBits_append (s : State) (xs ys : List Nat) :
    s.textBits (xs ++ ys) = s.textBits xs ++ s.textBits ys := List.flatMap_append

/-! ## The encoder (42_huffman_tree.md R142, R144) -/

/-- An ENCSYM that completes has appended the code of a used symbol. -/
theorem encsym_eq_done {s t : State} {sym : Nat} (hs : Inv s) (h : encsym sym s = .done t) :
    s.coded sym ∧ t.writtenBits = s.writtenBits ++ s.codeBits sym ∧
      t = { s with wacc := t.wacc, wn := t.wn, outq := t.outq } := by
  by_cases hsym : sym < s.size
  · by_cases hvalid : s.codesValid = true
    · by_cases hunused : s.lenAt sym = 0
      · exact nomatch (encsym_of_unused hsym hvalid hunused).symm.trans h
      · have hcoded : s.coded sym := ⟨hsym, hunused⟩
        by_cases hroom : s.roomFor (s.lenAt sym)
        · obtain ⟨u, hu, hbits, -, -, hframe⟩ := encsym_of_room hs hvalid hcoded hroom
          cases hu.symm.trans h
          exact ⟨hcoded, hbits, hframe⟩
        · exact nomatch (encsym_of_no_room hs hvalid hcoded hroom).symm.trans h
    · exact nomatch (encsym_of_invalid hsym (Bool.eq_false_iff.mpr hvalid)).symm.trans h
  · exact nomatch (encsym_of_size_le (Nat.le_of_not_lt hsym)).symm.trans h

theorem encsym_keeps_inv {s t : State} {sym : Nat} (hs : Inv s) (h : encsym sym s = .done t) : Inv t := by
  have hall := endingOf_inv hs (.encsym sym)
  rwa [endingOf, h] at hall

/-- A read of OUT_DATA takes the first byte off the bits written. -/
theorem writtenBits_eq_pop (s : State) :
    s.writtenBits = streamBits (s.outq.take 1) ++ (readRegister .outData s).writtenBits := by
  have hsplit : s.outq = s.outq.take 1 ++ s.outq.tail := by
    rw [← List.drop_one, List.take_append_drop]
  calc s.writtenBits = streamBits (s.outq.take 1 ++ s.outq.tail) ++ lowBits s.wacc s.wn := by rw [← hsplit]; rfl
    _ = _ := by rw [streamBits_append, List.append_assoc]; rfl

/-- The bytes popped and the bits still there are those there at first and the codes of the symbols encoded, as the
state `r` has them. -/
theorem encodeRun_appends {turns : List EncodeTurn} {r e e' : State} {syms : List Nat} {popped : List Byte}
    (he : Inv e) (hsame : SameCodes r e) (h : encodeRun turns e = some (syms, popped, e')) :
    Inv e' ∧ (∀ sym ∈ syms, r.coded sym) ∧
      streamBits popped ++ e'.writtenBits = e.writtenBits ++ r.textBits syms := by
  induction turns generalizing e syms popped with
  | nil =>
    cases h
    exact ⟨he, nofun, (List.append_nil _).symm⟩
  | cons turn turns ih =>
    cases turn with
    | encode sym =>
      rw [encodeRun] at h
      split at h
      · rename_i t hdone
        obtain ⟨⟨syms', popped', e''⟩, hrun, hr⟩ := Option.map_eq_some_iff.mp h
        cases hr
        obtain ⟨hcoded, hbits, hframe⟩ := encsym_eq_done he hdone
        have hsame' : SameCodes e t := by
          rw [hframe]
          exact sameCodes_of_tables rfl rfl rfl
        obtain ⟨he', hsyms, hstream⟩ := ih (encsym_keeps_inv he hdone) (hsame.trans hsame') hrun
        have hcoded' := (hsame.coded sym).mp hcoded
        refine ⟨he', List.forall_mem_cons.mpr ⟨hcoded', hsyms⟩, ?_⟩
        rw [hstream, hbits, hsame.bits sym hcoded', textBits_cons, List.append_assoc]
      · exact ih he hsame h
      · cases h
    | pop =>
      obtain ⟨⟨syms', popped', e''⟩, hrun, hr⟩ := Option.map_eq_some_iff.mp h
      cases hr
      obtain ⟨he', hsyms, hstream⟩ :=
        ih (readRegister_inv he .outData) (hsame.trans (sameCodes_of_tables rfl rfl rfl)) hrun
      refine ⟨he', hsyms, ?_⟩
      rw [streamBits_append, List.append_assoc, hstream, writtenBits_eq_pop e, List.append_assoc]

/-- Encoding in one piece is a run without a pop. -/
theorem encodeRun_of_encodeAll {syms : List Nat} {e e' : State} (h : encodeAll syms e = some e') :
    encodeRun (syms.map .encode) e = some (syms, [], e') := by
  induction syms generalizing e with
  | nil => cases h; rfl
  | cons sym syms ih =>
    rw [encodeAll] at h
    split at h
    · rename_i t hdone
      simp only [List.map_cons, encodeRun, hdone, ih h, Option.map_some]
    · cases h
    · cases h

/-- From an empty writer and OUTQ, the bytes popped and those of the closed writer begin with the codes in order. -/
theorem closed_stream_of_encodeRun {turns : List EncodeTurn} {e e' c : State} {syms : List Nat} {popped : List Byte}
    (he : Inv e) (hwn : e.wn = 0) (houtq : e.outq = []) (hrun : encodeRun turns e = some (syms, popped, e'))
    (hclose : closeWriter e' = some c) :
    (∀ sym ∈ syms, e.coded sym) ∧ e.textBits syms <+: streamBits (popped ++ c.outq) := by
  obtain ⟨he', hsyms, hstream⟩ := encodeRun_appends he (.refl e) hrun
  have hempty : e.writtenBits = [] := by rw [State.writtenBits, hwn, houtq]; rfl
  rw [hempty, List.nil_append] at hstream
  rw [← hstream, streamBits_append, List.prefix_append_right_inj]
  exact ⟨hsyms, writtenBits_prefix_of_closeWriter he'.writer.1 hclose⟩

/-! ## The decoder (42_huffman_tree.md R143, R144) -/

/-- `d` can decode the codes of `r`: its tree is valid, and its codes are those of `r`. -/
structure DecoderOf (r d : State) : Prop where
  inv   : Inv d
  valid : d.treeValid = true
  same  : SameCodes r d

section
variable {r d t : State} {sym : Nat} {more : List Bool}

/-- Unread bits that begin with a code: DECSYM takes it off. -/
theorem DecoderOf.decsym_of_code (hd : DecoderOf r d) (hcoded : r.coded sym)
    (hbits : d.unreadBits = r.codeBits sym ++ more) :
    ∃ t, decsym d = .done t ∧ DecoderOf r t ∧ t.result = BitVec.ofNat 32 sym ∧ t.unreadBits = more := by
  rw [← hd.same.bits sym hcoded] at hbits
  obtain ⟨t, hdone, hresult, hmore, hframe⟩ :=
    Machine.decsym_of_code hd.inv hd.valid ((hd.same.coded sym).mpr hcoded) hbits
  have hinv : Inv t := by
    have hall := endingOf_inv hd.inv .decsym
    rwa [endingOf, hdone] at hall
  have htables : t.treeValid = d.treeValid ∧ SameCodes d t := by
    rw [hframe]
    exact ⟨rfl, sameCodes_of_tables rfl rfl rfl⟩
  obtain ⟨hvalid, hsame⟩ := htables
  exact ⟨t, hdone, ⟨hinv, hvalid.trans hd.valid, hd.same.trans hsame⟩, hresult, hmore⟩

/-- Unread bits that begin a stream of codes begin with the first code, or stop inside it. -/
theorem DecoderOf.unread_cases (hd : DecoderOf r d) (hcoded : r.coded sym)
    (h : d.unreadBits <+: r.codeBits sym ++ more) :
    (∃ rest, d.unreadBits = r.codeBits sym ++ rest) ∨ d.insideCode d.unreadBits := by
  obtain hprefix | ⟨rest, hrest⟩ := List.prefix_or_prefix_of_prefix h (List.prefix_append _ _)
  · by_cases heq : d.unreadBits = r.codeBits sym
    · exact .inl ⟨[], by rw [heq, List.append_nil]⟩
    · rw [← hd.same.bits sym hcoded] at hprefix heq
      exact .inr (.inr ⟨sym, (hd.same.coded sym).mpr hcoded, hprefix, heq⟩)
  · exact .inl ⟨rest, hrest.symm⟩

/-- A DECSYM that completes on the beginning of a stream of codes has decoded the first of them. -/
theorem DecoderOf.decsym_eq_done (hd : DecoderOf r d) (hcoded : r.coded sym)
    (hstream : d.unreadBits <+: r.codeBits sym ++ more) (h : decsym d = .done t) :
    DecoderOf r t ∧ t.result = BitVec.ofNat 32 sym ∧ d.unreadBits = r.codeBits sym ++ t.unreadBits := by
  obtain ⟨rest, hbits⟩ | hinside := hd.unread_cases hcoded hstream
  · obtain ⟨u, hu, hready, hresult, hrest⟩ := hd.decsym_of_code hcoded hbits
    cases hu.symm.trans h
    exact ⟨hready, hresult, hrest ▸ hbits⟩
  · obtain ⟨hclosed, hopen⟩ := decsym_of_insideCode hd.inv hd.valid hinside
    cases hc : d.inClosed with
    | true =>
      obtain ⟨u, hu, -⟩ := hclosed hc
      exact nomatch hu.symm.trans h
    | false => exact nomatch (hopen hc).symm.trans h

/-- Unless the input is closed, a DECSYM on the beginning of a stream of codes does not fail. -/
theorem DecoderOf.decsym_ne_error (hd : DecoderOf r d) (hcoded : r.coded sym)
    (hstream : d.unreadBits <+: r.codeBits sym ++ more) (hopen : d.inClosed = false) (err : ErrorCode) :
    decsym d ≠ .error err t := by
  intro h
  obtain ⟨rest, hbits⟩ | hinside := hd.unread_cases hcoded hstream
  · obtain ⟨u, hu, -⟩ := hd.decsym_of_code hcoded hbits
    exact nomatch hu.symm.trans h
  · obtain ⟨-, hhold⟩ := decsym_of_insideCode hd.inv hd.valid hinside
    exact nomatch (hhold hopen).symm.trans h

/-- A host write that stores no table keeps the decoder's codes. -/
theorem DecoderOf.writeRegister (hd : DecoderOf r d) (reg : Reg) (v : Word)
    (hvalid : (writeRegister reg v d).treeValid = d.treeValid) (hsame : SameCodes d (writeRegister reg v d)) :
    DecoderOf r (writeRegister reg v d) :=
  ⟨(writeRegister_effect reg v d).inv hd.inv, hvalid.trans hd.valid, hd.same.trans hsame⟩

end

/-- An accepted write of IN_DATA appends the byte to INQ. -/
theorem writeRegister_inData_of_room (b : Byte) {d : State} (hopen : d.inClosed = false)
    (hroom : d.inq.length ≠ Config.inDepth) :
    writeRegister .inData (b.setWidth 32) d = { d with inq := d.inq ++ [b] } := by
  have hbyte : (b.setWidth 32).extractLsb' 0 8 = b := by
    rw [← BitVec.setWidth_eq_extractLsb' (by decide), BitVec.setWidth_setWidth_of_le _ (by decide), BitVec.setWidth_eq]
  exact (pushIn_of_room _ hopen hroom).trans (by rw [hbyte])

theorem writeRegister_inCtrl_one (d : State) : writeRegister .inCtrl 1 d = { d with inClosed := true } :=
  closeInput_of_set d rfl

@[simp] theorem pushedBytes_decode (turns : List DecodeTurn) : pushedBytes (.decode :: turns) = pushedBytes turns := rfl

@[simp] theorem pushedBytes_push (b : Byte) (turns : List DecodeTurn) :
    pushedBytes (.push b :: turns) = b :: pushedBytes turns := rfl

@[simp] theorem pushedBytes_close (turns : List DecodeTurn) : pushedBytes (.close :: turns) = pushedBytes turns := rfl

/-- A run on the beginning of a stream of codes decodes the first symbols, and leaves the rest of the bits unread. -/
theorem decodeRun_decodes {turns : List DecodeTurn} {r d d' : State} {syms : List Nat} {pad : List Bool}
    {values : List Word} (hd : DecoderOf r d) (hsyms : ∀ sym ∈ syms, r.coded sym)
    (hstream : d.unreadBits ++ streamBits (pushedBytes turns) <+: r.textBits syms ++ pad)
    (hcount : values.length ≤ syms.length) (h : decodeRun turns d = some (values, d')) :
    DecoderOf r d' ∧ ∃ decoded left, syms = decoded ++ left ∧ values = decoded.map (BitVec.ofNat 32) ∧
      d.unreadBits ++ streamBits (pushedBytes turns) = r.textBits decoded ++ d'.unreadBits := by
  induction turns generalizing d syms values with
  | nil =>
    cases h
    exact ⟨hd, [], syms, rfl, rfl, List.append_nil _⟩
  | cons turn turns ih =>
    cases turn with
    | decode =>
      rw [decodeRun] at h
      split at h
      · rename_i t hdone
        obtain ⟨⟨values', d''⟩, hrun, hr⟩ := Option.map_eq_some_iff.mp h
        cases hr
        obtain _ | ⟨sym, syms⟩ := syms
        · nomatch hcount
        obtain ⟨hcoded, hrest⟩ := List.forall_mem_cons.mp hsyms
        rw [textBits_cons, List.append_assoc] at hstream
        obtain ⟨ht, hresult, hbits⟩ := hd.decsym_eq_done hcoded ((List.prefix_append _ _).trans hstream) hdone
        rw [hbits, List.append_assoc, pushedBytes_decode, List.prefix_append_right_inj] at hstream
        obtain ⟨hd', decoded, left, rfl, rfl, hleft⟩ :=
          ih ht hrest hstream (Nat.le_of_succ_le_succ hcount) hrun
        refine ⟨hd', sym :: decoded, left, rfl, by rw [hresult, List.map_cons], ?_⟩
        rw [hbits, List.append_assoc, pushedBytes_decode, hleft, textBits_cons, List.append_assoc]
      · exact ih hd hsyms hstream hcount h
      · cases h
    | push b =>
      rw [decodeRun] at h
      split at h
      · cases h
      · rename_i hbarred
        obtain ⟨hclosed, hroom⟩ := not_or.mp hbarred
        have hwrite := writeRegister_inData_of_room b (Bool.eq_false_iff.mpr hclosed) hroom
        have hd' := hd.writeRegister .inData (b.setWidth 32) (by rw [hwrite])
          (by rw [hwrite]; exact sameCodes_of_tables rfl rfl rfl)
        have hbits : (writeRegister .inData (b.setWidth 32) d).unreadBits ++ streamBits (pushedBytes turns)
            = d.unreadBits ++ streamBits (pushedBytes (.push b :: turns)) := by
          simp [hwrite, State.unreadBits]
        rw [← hbits] at hstream ⊢
        exact ih hd' hsyms hstream hcount h
    | close =>
      have hwrite := writeRegister_inCtrl_one d
      have hd' := hd.writeRegister .inCtrl 1 (by rw [hwrite])
        (by rw [hwrite]; exact sameCodes_of_tables rfl rfl rfl)
      have hbits : (writeRegister .inCtrl 1 d).unreadBits = d.unreadBits := by rw [hwrite]; rfl
      rw [pushedBytes_close, ← hbits] at hstream ⊢
      exact ih hd' hsyms hstream hcount h

/-- As many DECSYM as there are codes at the front of the unread bits complete and return their symbols. -/
theorem decodeAll_decodes {r d : State} {syms : List Nat} {pad : List Bool} (hd : DecoderOf r d)
    (hsyms : ∀ sym ∈ syms, r.coded sym) (hbits : d.unreadBits = r.textBits syms ++ pad) :
    ∃ d', decodeAll syms.length d = some (syms.map (BitVec.ofNat 32), d') := by
  induction syms generalizing d with
  | nil => exact ⟨d, rfl⟩
  | cons sym syms ih =>
    obtain ⟨hcoded, hrest⟩ := List.forall_mem_cons.mp hsyms
    rw [textBits_cons, List.append_assoc] at hbits
    obtain ⟨t, hdone, ht, hresult, hmore⟩ := hd.decsym_of_code hcoded hbits
    obtain ⟨d', hrun⟩ := ih ht hrest hmore
    exact ⟨d', by simp [decodeAll, hdone, hrun, hresult]⟩

/-! ## The statement -/

/-- A reader between two bytes has the bits of INQ unread. -/
theorem unreadBits_of_rn_zero {d : State} (h : d.rn = 0) : d.unreadBits = streamBits d.inq := by
  rw [State.unreadBits, h]
  rfl

/-- A valid tree for the lengths of `e` decodes the codes of `e`. -/
theorem decoderOf_of_lengths {e d : State} (he : Inv e) (hd : Inv d) (hcodes : e.codesValid = true)
    (htree : d.treeValid = true) (hsize : e.size = d.size) (hlen : ∀ i, i < e.size → e.len.read i = d.len.read i) :
    DecoderOf e d :=
  ⟨hd, htree, sameCodes_of_lengths he hd hcodes (hd.tree_current htree).1 hsize hlen⟩

/-- Settles O34: the encoder's bytes begin with the codes in order, and the decoder takes these off one by one. -/
theorem huffmanRoundTrip : Obligations.HuffmanRoundTrip := by
  constructor
  · intro syms e e' c d he hd hcodes htree hsize hlen _ hwn houtq hencode hclose hrn hinq
    obtain ⟨hsyms, pad, hpad⟩ := closed_stream_of_encodeRun he hwn houtq (encodeRun_of_encodeAll hencode) hclose
    refine decodeAll_decodes (decoderOf_of_lengths he hd hcodes htree hsize hlen) hsyms (pad := pad) ?_
    rw [unreadBits_of_rn_zero hrn, hinq, hpad, List.nil_append]
  · intro atEncoder atDecoder e e' c d d' syms popped values he hd hcodes htree hsize hlen hwn houtq hencode hclose hrn
      hdecode hpushed hcount
    obtain ⟨hsyms, pad, hpad⟩ := closed_stream_of_encodeRun he hwn houtq hencode hclose
    have hbits : d.unreadBits ++ streamBits (pushedBytes atDecoder) = streamBits (d.inq ++ pushedBytes atDecoder) := by
      rw [unreadBits_of_rn_zero hrn, streamBits_append]
    have hstream : d.unreadBits ++ streamBits (pushedBytes atDecoder) <+: e.textBits syms ++ pad := by
      obtain ⟨missing, hmissing⟩ := hpushed
      rw [hbits, hpad, ← hmissing, streamBits_append _ missing]
      exact List.prefix_append _ _
    obtain ⟨hd', decoded, left, rfl, rfl, hsplit⟩ :=
      decodeRun_decodes (decoderOf_of_lengths he hd hcodes htree hsize hlen) hsyms hstream hcount hdecode
    rw [List.length_map, List.take_left]
    refine ⟨rfl, fun sym hnext => ?_⟩
    rw [List.getElem?_append_right (Nat.le_refl _), Nat.sub_self] at hnext
    obtain ⟨left, rfl⟩ : ∃ rest, left = sym :: rest := List.head?_eq_some_iff.mp (List.head?_eq_getElem? ▸ hnext)
    have hcoded := hsyms sym (List.mem_append_right _ List.mem_cons_self)
    rw [textBits_append, textBits_cons, List.append_assoc, List.append_assoc] at hstream hpad
    refine ⟨fun hopen err t => ?_, fun hall => ?_⟩
    · rw [hsplit, List.prefix_append_right_inj] at hstream
      exact hd'.decsym_ne_error hcoded hstream hopen err
    · rw [hbits, hall, ← hpad, List.append_cancel_left_eq] at hsplit
      obtain ⟨t, hdone, -, hresult, -⟩ := hd'.decsym_of_code hcoded hsplit.symm
      exact ⟨t, hdone, hresult⟩

end Sys2Proof.Machine
end

section
/-! SUPPORT. The raw bit-stream commands (43_bitstream.md R163 to R167): the equation of `wrbits`, `closeWriter` and
`rdbit` in each case of its rule; the statements WrbitsRule, WrcloseRule, RdbitRule, RdresetRule and
WriterAndReaderAreIndependent. -/

namespace Sys2Proof.Machine

/-! ## WRBITS (43_bitstream.md R164) -/

section
variable {s : State} {n : Nat}

theorem wrbits_of_gt (h : 32 < n) : wrbits n s = .error .badOperand s := if_pos h

theorem wrbits_of_le (h : n ≤ 32) : wrbits n s = doneOrHold (writeBits s.data n s) := if_neg (Nat.not_lt.mpr h)

/-- With room for them, the low bits of DATA are appended to the bits written. -/
theorem wrbits_of_room (hs : Inv s) (hle : n ≤ 32) (hroom : s.roomFor n) : ∃ t, wrbits n s = .done t ∧
    t.writtenBits = s.writtenBits ++ lowBits s.data n ∧ s.outq <+: t.outq ∧ t.wn = (s.wn + n) % 8 ∧
    t = { s with wacc := t.wacc, wn := t.wn, outq := t.outq } := by
  obtain ⟨t, ht⟩ := Option.isSome_iff_exists.mp ((writeBits_isSome_iff hs s.data n).mpr hroom)
  obtain ⟨hbits, hcount, hbytes⟩ := writeBits_appends hs.writer.1 ht
  exact ⟨t, by rw [wrbits_of_le hle, ht, doneOrHold_some], hbits, hbytes, hcount, writeBits_frame ht⟩

theorem wrbits_of_no_room (hs : Inv s) (hle : n ≤ 32) (hroom : ¬ s.roomFor n) : wrbits n s = .hold := by
  rw [← writeBits_isSome_iff hs s.data, Option.not_isSome_iff_eq_none] at hroom
  rw [wrbits_of_le hle, hroom, doneOrHold_none]

end

/-- Settles O35, from the equation of `wrbits` in each case of its rule. -/
theorem wrbitsRule : Obligations.WrbitsRule := by
  refine ⟨fun n hn => ?_, fun s n hs => ⟨fun hgt => ?_, fun hle hroom => ?_, fun hle hroom => ?_⟩⟩
  · have hword : (0x00000020 ||| BitVec.ofNat 32 n <<< 8 : Word) = encode (.wrbits n) :=
      or_shiftLeft_eq_commandWord (by decide) (by omega)
    rw [hword]
    exact decodeOfEncode _ (decide_eq_true hn)
  · rw [exec_wrbits, wrbits_of_gt hgt, settle_error_self]; rfl
  · obtain ⟨t, hdone, hbits, hbytes, hcount, hframe⟩ := wrbits_of_room hs hle hroom
    refine ⟨_, exec_wrbits n s, ?_⟩
    rw [hdone, settle_done]
    exact ⟨hbits, hbytes, hcount, by rw [hframe]⟩
  · rw [exec_wrbits, wrbits_of_no_room hs hle hroom, settle_hold]

/-! ## WRCLOSE (43_bitstream.md R161, R165) -/

/-- A shift to the left brings in zero bits. -/
theorem lowBits_shiftLeft_self {w : Nat} (v : BitVec w) {k n : Nat} (h : n ≤ k) :
    lowBits (v <<< k) n = List.replicate n false := by
  induction n with
  | zero => rfl
  | succ n ih =>
    have hbit : (v <<< k).getLsbD n = false := by
      rw [BitVec.getLsbD_shiftLeft, decide_eq_true (show n < k from h), Bool.not_true, Bool.and_false, Bool.false_and]
    rw [lowBits_succ, hbit, ih (by omega), List.replicate_succ]

/-- The closing byte: the accumulated bits, then zeros. -/
theorem lowBits_closingByte (acc : Byte) {n : Nat} (h : n ≤ 8) :
    lowBits (acc <<< (8 - n)) 8 = lowBits acc n ++ List.replicate (8 - n) false := by
  have hsplit := lowBits_shiftLeft acc (8 - n) (show n + (8 - n) ≤ 8 by omega)
  rwa [Nat.add_sub_cancel' h, lowBits_shiftLeft_self acc (Nat.le_refl _)] at hsplit

/-- Settles O36: the three cases of WRCLOSE are those of `closeWriter`, and no two of them meet. -/
theorem wrcloseRule : Obligations.WrcloseRule := by
  refine ⟨decodeOfEncode .wrclose rfl, fun s hs => ?_⟩
  rw [exec_wrclose]
  obtain ⟨hwn, hc⟩ | ⟨hwn, hfull, hc⟩ | ⟨hwn, hroom, hc⟩ := closeWriter_cases s
  · rw [hc]
    exact ⟨fun _ => rfl, fun hpos => absurd hwn hpos.ne', fun hpos => absurd hwn hpos.ne'⟩
  · rw [hc]
    exact ⟨fun hzero => absurd hzero hwn.ne', fun _ _ => rfl, fun _ hroom => absurd hfull hroom⟩
  · rw [hc]
    have hwn8 : s.wn ≤ 8 := Nat.le_succ_of_le hs.writer.1
    exact ⟨fun hzero => absurd hzero hwn.ne', fun _ hfull => absurd hfull hroom,
      fun _ _ => ⟨_, rfl, lowBits_closingByte s.wacc hwn8⟩⟩

/-! ## RDBIT (43_bitstream.md R162, R166) -/

section
variable {s : State}

/-- With a bit unread, RESULT becomes it, and exactly it is consumed. -/
theorem rdbit_of_unread_cons {b : Bool} {rest : List Bool} (h : s.unreadBits = b :: rest) :
    ∃ t : State, rdbit s = .done { t with result := BitVec.ofNat 32 b.toNat, eos := false } ∧ t.unreadBits = rest ∧
      t = { s with rbyte := t.rbyte, rn := t.rn, inq := t.inq } := by
  obtain ⟨t, hread, hrest, hframe⟩ := readBit_of_unread_cons h
  exact ⟨t, by rw [rdbit, hread], hrest, hframe⟩

theorem rdbit_of_closed (h : s.unreadBits = []) (hclosed : s.inClosed = true) :
    rdbit s = .done { s with result := 0xFFFFFFFF, eos := true } := by
  rw [rdbit, readBit_of_unread_nil h, if_pos hclosed]

theorem rdbit_of_open (h : s.unreadBits = []) (hopen : s.inClosed = false) : rdbit s = .hold := by
  rw [rdbit, readBit_of_unread_nil h, if_neg (Bool.eq_false_iff.mp hopen)]

end

/-- Settles O37, from the equation of `rdbit` in each case of its rule. -/
theorem rdbitRule : Obligations.RdbitRule := by
  refine ⟨decodeOfEncode .rdbit rfl, fun s => ⟨fun b rest hbits => ?_, fun hnone hclosed => ?_, fun hnone hopen => ?_⟩⟩
  · obtain ⟨t, hdone, hrest, hframe⟩ := rdbit_of_unread_cons hbits
    refine ⟨_, exec_rdbit s, ?_⟩
    rw [hdone, settle_done]
    exact ⟨hrest, by rw [hframe]⟩
  · rw [exec_rdbit, rdbit_of_closed hnone hclosed, settle_done]
  · rw [exec_rdbit, rdbit_of_open hnone hopen, settle_hold]

/-! ## RDRESET and the two sides (43_bitstream.md R163, R167) -/

/-- Settles O38: `exec_rdreset` and the word RDRESET encodes to. -/
theorem rdresetRule : Obligations.RdresetRule := ⟨decodeOfEncode .rdreset rfl, exec_rdreset⟩

/-- Settles O39: the frame of a writing command lists the writer and OUTQ only, and that of a reading command the
reader's side and RESULT. -/
theorem writerAndReaderAreIndependent : Obligations.WriterAndReaderAreIndependent := by
  constructor
  · intro i s t hwriting h
    rw [exec_frame h]
    obtain ⟨n, rfl⟩ | ⟨sym, rfl⟩ | rfl := hwriting
    all_goals exact ⟨rfl, rfl, rfl, rfl, rfl⟩
  · intro i s t hreading h
    rw [exec_frame h]
    obtain rfl | rfl | rfl := hreading
    all_goals exact ⟨rfl, rfl, rfl⟩

end Sys2Proof.Machine
end

section
/-! SUPPORT. The error record while ERR = 1 (60_exceptions.md R183, R190): recording another error, every command but
CLRERR and SRST, and every host access keep it; the statement ErrorRecordIsSticky. -/

namespace Sys2Proof.Machine

/-! ## A recorded error -/

/-- ERR is 1 and ERRCODE shows `code` (10_state.md R28). -/
def State.hasError (s : State) (code : Byte) : Prop := s.err = true ∧ s.errcode = code

section
variable {s t : State} {code : Byte}

/-- An error raised while ERR = 1 is not recorded: the first one since the last clear stays. -/
theorem State.hasError.recordError (h : s.hasError code) (e : ErrorCode) : (recordError e s).hasError code :=
  have ⟨herr, hcode⟩ := h
  ⟨rfl, (if_pos herr).trans hcode⟩

theorem State.hasError.settle (h : s.hasError code) {r : Ending} (hr : r.All (State.hasError · code)) :
    (settle s r).hasError code := by
  cases r with
  | done u => exact hr
  | hold => exact h
  | error e u => exact State.hasError.recordError (s := { u with pending := none }) hr e

/-! ## The commands (40_control.md R111, R112) -/

theorem Ending.All.imp {P Q : State → Prop} {r : Ending} (hr : r.All P) (himp : ∀ u, P u → Q u) : r.All Q := by
  cases r with
  | done u => exact himp u hr
  | hold => trivial
  | error e u => exact himp u hr

/-- Only CLRERR and SRST have the error record in their frame. -/
theorem commandFrame_hasError {i : Instr} (hclrerr : i ≠ .clrerr) (hsrst : i ≠ .srst) (h : s.hasError code) (u : State) :
    (commandFrame i s u).hasError code := by
  cases i with
  | clrerr => exact absurd rfl hclrerr
  | srst => exact absurd rfl hsrst
  | _ => exact h

/-- The evaluation of a command, before its ending is settled, leaves the record to CLRERR and SRST. -/
theorem endingOf_hasError {i : Instr} (hclrerr : i ≠ .clrerr) (hsrst : i ≠ .srst) (h : s.hasError code) :
    (endingOf i s).All (State.hasError · code) :=
  (endingOf_frame i s).imp fun u hu => hu ▸ commandFrame_hasError hclrerr hsrst h u

theorem exec_hasError {i : Instr} (hclrerr : i ≠ .clrerr) (hsrst : i ≠ .srst) (h : s.hasError code)
    (hexec : exec i s = .next t) : t.hasError code := by
  rw [exec_eq_settle] at hexec
  cases hexec
  exact h.settle (endingOf_hasError hclrerr hsrst h)

/-! ## The host accesses (20_memory.md R63, R64) -/

theorem readRegister_hasError (h : s.hasError code) (r : Reg) : (readRegister r s).hasError code := by
  rw [readRegister_frame]
  exact h

/-- A barred write raises an error of its own, and no other write touches the record. -/
theorem WriteEffect.hasError {r : Reg} {v : Word} (heffect : WriteEffect s r v t) (h : s.hasError code) :
    t.hasError code := by
  cases heffect with
  | barred _ _ e => exact h.recordError e
  | _ => exact h

/-! ## The step -/

/-- A step other than CLRERR and SRST keeps a recorded error. -/
theorem StepEvent.hasError (hevent : StepEvent s t) (h : s.hasError code) :
    t.hasError code ∨ s.executes .clrerr ∨ s.executes .srst := by
  have hturn : State.hasError { s with agenda := s.agenda.tail } code := h
  cases hevent with
  | read r => exact .inl (readRegister_hasError hturn r)
  | write _ _ _ _ heffect => exact .inl (heffect.hasError hturn)
  | idle => exact .inl hturn
  | illegal =>
    exact .inl (State.hasError.recordError (s := { s with agenda := s.agenda.tail, pending := none }) h .illegal)
  | command i _ hexecutes hexec =>
    by_cases hclrerr : i = .clrerr
    · exact .inr (.inl (hclrerr ▸ hexecutes))
    · by_cases hsrst : i = .srst
      · exact .inr (.inr (hsrst ▸ hexecutes))
      · exact .inl (exec_hasError hclrerr hsrst hturn hexec)

end

/-! ## The statement -/

/-- Settles O57: every event of a step keeps a recorded error, except the two commands that clear it. -/
theorem errorRecordIsSticky : Obligations.ErrorRecordIsSticky :=
  fun _ _ hstep herr => (step_event hstep).hasError ⟨herr, rfl⟩

end Sys2Proof.Machine
end

section
/-! SUPPORT. When a command holds and how the host lifts the hold (70_reset_and_hazards.md R213, R216): a full OUTQ is
the only obstacle of a writer and an open input with fewer than four bytes the only one of a reader; the statement
HoldsCanBeLifted. -/

namespace Sys2Proof.Machine

/-! ## The writing commands (70_reset_and_hazards.md R213) -/

section
variable {s : State}

/-- With at most seven bits in WACC, at most 32 more complete at most four bytes. -/
theorem roomFor_of_outq_nil (hs : Inv s) (hempty : s.outq = []) {n : Nat} (hn : n ≤ 32) : s.roomFor n := by
  have hwn := hs.writer.1
  have hdepth := four_le_outDepth
  rw [State.roomFor, hempty, List.length_nil]
  omega

theorem wrbits_ne_hold (hs : Inv s) (hempty : s.outq = []) (n : Nat) : wrbits n s ≠ .hold := by
  obtain hgt | hle := Nat.lt_or_ge 32 n
  · rw [wrbits_of_gt hgt]; nofun
  · obtain ⟨t, hdone, -⟩ := wrbits_of_room hs hle (roomFor_of_outq_nil hs hempty hle)
    rw [hdone]; nofun

theorem encsym_ne_hold (hs : Inv s) (hempty : s.outq = []) (sym : Nat) : encsym sym s ≠ .hold := by
  obtain hlt | hge := Nat.lt_or_ge sym s.size
  · cases hvalid : s.codesValid with
    | false => rw [encsym_of_invalid hlt hvalid]; nofun
    | true =>
      by_cases hunused : s.lenAt sym = 0
      · rw [encsym_of_unused hlt hvalid hunused]; nofun
      · have hlen : s.lenAt sym ≤ 32 := (hs.codes hvalid).1 sym hlt
        obtain ⟨t, hdone, -⟩ := encsym_of_room hs hvalid ⟨hlt, hunused⟩ (roomFor_of_outq_nil hs hempty hlen)
        rw [hdone]; nofun
  · rw [encsym_of_size_le hge]; nofun

theorem wrclose_ne_hold (hempty : s.outq = []) : doneOrHold (closeWriter s) ≠ .hold := by
  obtain ⟨-, hc⟩ | ⟨-, hfull, -⟩ | ⟨-, -, hc⟩ := closeWriter_cases s
  · rw [hc]; nofun
  · have hdepth := four_le_outDepth
    rw [hempty, List.length_nil] at hfull
    omega
  · rw [hc]; nofun

/-- With OUTQ empty no writing command holds. -/
theorem writing_ne_hold (hs : Inv s) (hempty : s.outq = []) {i : Instr}
    (hi : (∃ n, i = .wrbits n) ∨ (∃ sym, i = .encsym sym) ∨ i = .wrclose) : endingOf i s ≠ .hold := by
  obtain ⟨n, rfl⟩ | ⟨sym, rfl⟩ | rfl := hi
  · exact wrbits_ne_hold hs hempty n
  · exact encsym_ne_hold hs hempty sym
  · exact wrclose_ne_hold hempty

/-! ## The reading commands (70_reset_and_hazards.md R213, R216) -/

/-- Bits begin with a code, stop inside one, or leave every code at some bit. -/
theorem bits_cases (s : State) (bits : List Bool) :
    (∃ sym rest, s.coded sym ∧ bits = s.codeBits sym ++ rest) ∨ s.insideCode bits ∨
    (∃ path b rest, bits = path ++ b :: rest ∧ s.insideCode path ∧
      ∀ sym, s.coded sym → ¬ path ++ [b] <+: s.codeBits sym) := by
  induction bits using List.reverseRecOn with
  | nil => exact .inr (.inl (.inl rfl))
  | append_singleton bits b ih =>
    obtain ⟨sym, rest, hcoded, rfl⟩ | hinside | ⟨path, c, rest, rfl, hinside, hleave⟩ := ih
    · exact .inl ⟨sym, rest ++ [b], hcoded, List.append_assoc _ _ _⟩
    · by_cases hstay : ∃ sym, s.coded sym ∧ bits ++ [b] <+: s.codeBits sym
      · obtain ⟨sym, hcoded, hprefix⟩ := hstay
        by_cases hwhole : bits ++ [b] = s.codeBits sym
        · exact .inl ⟨sym, [], hcoded, by rw [hwhole, List.append_nil]⟩
        · exact .inr (.inl (.inr ⟨sym, hcoded, hprefix, hwhole⟩))
      · exact .inr (.inr ⟨bits, b, [], rfl, hinside, fun sym hcoded hprefix => hstay ⟨sym, hcoded, hprefix⟩⟩)
    · exact .inr (.inr ⟨path, c, rest ++ [b], List.append_assoc _ _ _, hinside, hleave⟩)

/-- A valid code has at most 32 bits, so fewer than 32 are inside it (R216). -/
theorem insideCode_length_lt (hs : Inv s) (hvalid : s.codesValid = true) {path : List Bool} (h : s.insideCode path) :
    path.length < 32 := by
  obtain rfl | ⟨sym, hcoded, hprefix, hne⟩ := h
  · decide
  · calc path.length
        < (s.codeBits sym).length := lt_of_le_of_ne hprefix.length_le fun heq => hne (hprefix.eq_of_length heq)
      _ = s.lenAt sym := codeBits_length s sym
      _ ≤ 32 := (hs.codes hvalid).1 sym hcoded.1

theorem decsym_ne_hold (hs : Inv s) (hinput : 4 ≤ s.inq.length ∨ s.inClosed = true) : decsym s ≠ .hold := by
  cases hvalid : s.treeValid with
  | false => rw [decsym_of_invalid hvalid]; nofun
  | true =>
    obtain ⟨sym, rest, hcoded, hbits⟩ | hinside | ⟨path, b, rest, hbits, hinside, hleave⟩ := bits_cases s s.unreadBits
    · obtain ⟨t, hdone, -⟩ := decsym_of_code hs hvalid hcoded hbits
      rw [hdone]; nofun
    · obtain hfour | hclosed := hinput
      · have hlt := insideCode_length_lt hs (hs.tree_current hvalid).1 hinside
        rw [← availableBits_eq_length, State.availableBits] at hlt
        omega
      · obtain ⟨t, herror, -⟩ := (decsym_of_insideCode hs hvalid hinside).1 hclosed
        rw [herror]; nofun
    · obtain ⟨t, herror, -⟩ := decsym_of_leaving hs hvalid hbits hinside hleave
      rw [herror]; nofun

theorem rdbit_ne_hold (hinput : 4 ≤ s.inq.length ∨ s.inClosed = true) : rdbit s ≠ .hold := by
  cases hbits : s.unreadBits with
  | nil =>
    obtain hfour | hclosed := hinput
    · rw [(unreadBits_eq_nil hbits).2] at hfour
      exact absurd hfour (by decide)
    · rw [rdbit_of_closed hbits hclosed]; nofun
  | cons b rest =>
    obtain ⟨t, hdone, -⟩ := rdbit_of_unread_cons hbits
    rw [hdone]; nofun

/-- With four bytes in INQ, or the input closed, no reading command holds. -/
theorem reading_ne_hold (hs : Inv s) (hinput : 4 ≤ s.inq.length ∨ s.inClosed = true) {i : Instr}
    (hi : i = .rdbit ∨ i = .decsym) : endingOf i s ≠ .hold := by
  obtain rfl | rfl := hi
  · exact rdbit_ne_hold hinput
  · exact decsym_ne_hold hs hinput

end

/-! ## Turns (00_scope.md R6, 20_memory.md R76) -/

section
variable {s t : State} {rest : List Turn}

/-- A command that does not hold leaves PENDING empty. -/
theorem exec_empties_pending {i : Instr} (h : endingOf i s ≠ .hold) : ∃ t, exec i s = .next t ∧ t.pending = none :=
  ⟨_, exec_eq_settle i s, not_not.mp fun hpending => h (eq_hold_of_settle_pending hpending)⟩

/-- A run goes on from the state its first step leaves. -/
theorem run_succ_of_next {M : Host.Core} (u v : M.State) (h : M.step u = .next v) (n : Nat) :
    M.run (n + 1) u = M.run n v := by
  simp [Host.Core.run, h]

/-- `run_succ_of_next` for the machine's own step. -/
theorem run_succ_of_step (h : step s = .next t) (n : Nat) :
    Host.Core.run Sys2Proof.core (n + 1) s = Host.Core.run Sys2Proof.core n t :=
  run_succ_of_next (M := Sys2Proof.core) s t h n

/-- A run whose first turn is the host's goes on from the state the access leaves. -/
theorem runTurns_host {a : Access} (h : hostAccess a { s with agenda := rest } = .next { t with agenda := rest }) :
    s.runTurns (.host a :: rest) = t.runTurns rest := by
  have hstep : step { s with agenda := .host a :: rest } = .next { t with agenda := rest } :=
    (step_of_agenda_host rfl).trans h
  exact run_succ_of_step hstep rest.length

/-- A run of one engine turn is the pending command. -/
theorem runTurns_engine {w : Word} {i : Instr} (hpending : s.pending = some w) (hword : decode w = .ok i) :
    s.runTurns [.engine] = exec i { s with agenda := [] } := by
  have hstep : step { s with agenda := [.engine] } = exec i { s with agenda := [] } :=
    step_of_executes ⟨⟨w, hpending, hword⟩, .inr ⟨[], rfl⟩⟩
  rw [exec_eq_settle] at hstep ⊢
  exact run_succ_of_step hstep 0

/-- As many reads of OUT_DATA as OUTQ holds bytes leave it empty. -/
theorem runTurns_drain (hs : Inv s) {n : Nat} (hn : s.outq.length = n) :
    ∃ t, s.runTurns (List.replicate n (.host (.read .w32 (.offset 0x024))) ++ rest) = t.runTurns rest ∧ Inv t ∧
      t.outq = [] ∧ t.pending = s.pending := by
  induction n generalizing s with
  | zero => exact ⟨s, rfl, hs, List.length_eq_zero_iff.mp hn, rfl⟩
  | succ n ih =>
    have hpop : (readRegister .outData s).outq.length = n := by
      show s.outq.tail.length = n
      rw [List.length_tail, hn, Nat.add_sub_cancel]
    obtain ⟨t, hrun, hinv, hempty, hpending⟩ := ih (readRegister_inv hs .outData) hpop
    refine ⟨t, ?_, hinv, hempty, hpending⟩
    rw [← hrun, List.replicate_succ, List.cons_append]
    exact runTurns_host (hostAccess_read_offset .outData _)

/-- A write of 1 to IN_CTRL closes the input. -/
theorem runTurns_close :
    s.runTurns (.host (.write .w32 (.offset 0x020) 1) :: rest) = State.runTurns { s with inClosed := true } rest :=
  runTurns_host ((hostAccess_write_offset .inCtrl 1 _).trans (by rw [writeRegister_inCtrl_one]))

/-- Writes of IN_DATA for which INQ has room are all taken. -/
theorem runTurns_push (hs : Inv s) (hopen : s.inClosed = false) (bytes : List Word)
    (hroom : s.inq.length + bytes.length ≤ Config.inDepth) :
    ∃ t, s.runTurns (bytes.map (fun v => Turn.host (.write .w32 (.offset 0x01C) v)) ++ rest) = t.runTurns rest ∧
      Inv t ∧ t.inq.length = s.inq.length + bytes.length ∧ t.pending = s.pending := by
  induction bytes generalizing s with
  | nil => exact ⟨s, rfl, hs, rfl, rfl⟩
  | cons v bytes ih =>
    rw [List.length_cons] at hroom
    have hfree : s.inq.length ≠ Config.inDepth := by omega
    have hwrite : ∀ agenda, writeRegister .inData v { s with agenda := agenda } =
        { s with agenda := agenda, inq := s.inq ++ [v.extractLsb' 0 8] } := fun _ => pushIn_of_room v hopen hfree
    have hlength : (s.inq ++ [v.extractLsb' 0 8]).length = s.inq.length + 1 := List.length_append
    have hinv := hs.withReader s.rbyte hs.reader (length_append_singleton_le hs.fifos.1 hfree (v.extractLsb' 0 8))
    obtain ⟨t, hrun, ht, hcount, hpending⟩ := ih hinv hopen (by simp only [hlength]; omega)
    refine ⟨t, ?_, ht, ?_, hpending⟩
    · rw [← hrun, List.map_cons, List.cons_append]
      exact runTurns_host ((hostAccess_write_offset .inData v _).trans (congrArg _ (hwrite _)))
    · rw [hcount, hlength, List.length_cons]
      omega

end

/-! ## The statement -/

/-- Settles O40: no writing command holds with OUTQ empty and no reading one with four bytes or a closed input, and
each run of host turns ends in such a state with the same word pending. -/
theorem holdsCanBeLifted : Obligations.HoldsCanBeLifted := by
  refine fun s hs => ⟨fun hempty i hi => exec_empties_pending (writing_ne_hold hs hempty hi),
    fun hinput i hi => exec_empties_pending (reading_ne_hold hs hinput hi),
    fun w i hw hword => ⟨fun hi => ?_, fun hi => ⟨?_, fun bytes hopen hfour => ?_⟩⟩⟩
  · obtain ⟨t, hrun, ht, hempty, hpending⟩ := runTurns_drain hs rfl
    rw [hrun, runTurns_engine (hpending.trans hw) hword]
    exact exec_empties_pending (writing_ne_hold (ht.withAgenda []) hempty hi)
  · have hclosed : Inv { s with inClosed := true } := hs.withUnconstrained _ _ _ _ true _ _ _ _
    rw [runTurns_close, runTurns_engine (s := { s with inClosed := true }) hw hword]
    exact exec_empties_pending (reading_ne_hold (hclosed.withAgenda []) (.inr rfl) hi)
  · have hroom : s.inq.length + bytes.length ≤ Config.inDepth := hfour.trans_le four_le_inDepth
    obtain ⟨t, hrun, ht, hcount, hpending⟩ := runTurns_push hs hopen bytes hroom
    rw [hrun, runTurns_engine (hpending.trans hw) hword]
    exact exec_empties_pending (reading_ne_hold (ht.withAgenda []) (.inl (hcount.trans hfour).ge) hi)

end Sys2Proof.Machine
end
